-- ==== Sys2Proof/Word.lean ====
section
/-! DEFINITION. The widths the spec names most often (00_scope.md R11: a value of width N is an
unsigned integer, bit 0 the least significant). Other widths are written `BitVec n` where they stand. -/

namespace Sys2Proof

/-- One byte of the image or of the link. -/
abbrev Byte := BitVec 8

/-- A 16-bit word: a header word, a response, the CRC register. -/
abbrev Half := BitVec 16

/-- A 32-bit word: a frame, a payload word, a cipher register. -/
abbrev Word := BitVec 32

end Sys2Proof
end

