-- ==== Sys2Proof/Syntax.lean ====
section
/-! DEFINITION. The instructions: one constructor for each row of spec/opcode_table.json. The sixteen commands of
format `U` take their operands from registers (30_encoding.md R110, R111), so they have no fields; a wire word of R96
carries the bits its row leaves open. -/

namespace Sys2Proof

inductive Instr where
  /-- NOP, opcode 0x0 (R203). -/
  | nop
  /-- CRC.NEW, opcode 0x1 (R131). -/
  | crcNew
  /-- CRC.UPDATE, opcode 0x2 (R132). -/
  | crcUpdate
  /-- CRC.SUM16, opcode 0x3 (R134). -/
  | crcSum16
  /-- CIPH.NEW, opcode 0x4 (R151). -/
  | ciphNew
  /-- CIPH.ENC, opcode 0x5 (R152). -/
  | ciphEnc
  /-- ROM.BUILD, opcode 0x6 (R170). -/
  | romBuild
  /-- XFER, opcode 0x7 (R190). -/
  | xfer
  /-- XFER16, opcode 0x8 (R191). -/
  | xfer16
  /-- XFER32, opcode 0x9 (R192). -/
  | xfer32
  /-- SENDD, opcode 0xA (R193). -/
  | sendd
  /-- SENDU, opcode 0xB (R194). -/
  | sendu
  /-- DELAY, opcode 0xC (R200). -/
  | delay
  /-- Reserved opcode 0xD (R112). -/
  | reservedD
  /-- Reserved opcode 0xE (R112). -/
  | reservedE
  /-- UPLOAD, opcode 0xF (R220, R221). -/
  | upload
  /-- W.POLL, 0x6200 in phases 1 and 2 (R222, R223). -/
  | wPoll
  /-- W.PR1, 0x6102 in phase 3 (R224). -/
  | wPr1
  /-- W.HDR, a header word in phase 4 (R225). -/
  | wHdr (h : Half)
  /-- W.HDREND, 0x6200 at the end of phase 4 (R226). -/
  | wHdrend
  /-- W.PR2, 0x6202 in phase 5 (R227). -/
  | wPr2
  /-- W.PAL, 0x63D1 in phase 6 (R228). -/
  | wPal
  /-- W.HS, 0x6400 or the handshake byte, in phase 7 (R231). -/
  | wHs (b : Byte)
  /-- W.LEN, the length word in phase 9 (R233). -/
  | wLen (n : Half)
  /-- W.DATA, an encrypted payload word in phase 10 (R234). -/
  | wData (d : Word)
  /-- W.CRCREQ, 0x0065 in phase 11 (R235). -/
  | wCrcreq
  /-- W.CRCGO, 0x0066 in phase 11 (R236). -/
  | wCrcgo
  /-- W.CRC, the sealed CRC in phase 12 (R238). -/
  | wCrc (c : Half)
  deriving DecidableEq, Repr

/-- Where a word of the link stands: the twelve contexts of R96. A transmitted word does not say what it is; its
context does (R104). -/
inductive WireCtx where
  | poll | pr1 | hdr | hdrend | pr2 | pal | hs | len | data | crcreq | crcgo | crc
  deriving DecidableEq, Repr

/-- What a group of bytes is read as: a value written to `CMD` (format `U`, R110), or a frame of the link in a
context (formats `T16` and `T32`, R90). -/
inductive Ctx where
  | cmd
  | wire (c : WireCtx)
  deriving DecidableEq, Repr

/-- Why bytes are no instruction in their context. -/
inductive DecodeError where
  /-- Not one byte for a command, or not four for a frame (R90). -/
  | wrongLength
  /-- The context has one fixed word (R96) and the frame is another. -/
  | notTheFixedWord (c : WireCtx)
  /-- The context has format `T16` and bytes 0 and 1 of the frame are not zero (R92, R107). -/
  | upperHalfNotZero (c : WireCtx)
  /-- The handshake word's high byte is not 0x64 (R98). -/
  | notTheHandshakeByte
  deriving DecidableEq, Repr

end Sys2Proof
end

