-- ==== Sys2Proof/WellFormed.lean ====
section
/-! DEFINITION. Well-formed instructions. The fields of `Instr` have exactly the widths of the encoding, and
30_encoding.md R107 says that the header, length, CRC and data words range over all values of their width (R229: every
handshake byte too), so no operand value is excluded: there is no check that a term of the type could fail. -/

namespace Sys2Proof

/-- The handshake, header, length, data and CRC words take every value of their width (R107, R229); the other
constructors have no operand. -/
def Instr.wellFormed : Instr → Bool
  | .nop | .crcNew | .crcUpdate | .crcSum16 | .ciphNew | .ciphEnc | .romBuild | .xfer | .xfer16 | .xfer32 | .sendd
  | .sendu | .delay | .reservedD | .reservedE | .upload => true
  | .wPoll | .wPr1 | .wHdrend | .wPr2 | .wPal | .wCrcreq | .wCrcgo => true
  | .wHdr _ | .wHs _ | .wLen _ | .wData _ | .wCrc _ => true

end Sys2Proof
end

