-- ==== Sys2Proof/Decode.lean ====
section
/-! DEFINITION. The decoder, total on any bytes and refusing by name, and the encoder (30_encoding.md R90 to R112).
A frame is decoded in its context (R104). -/

namespace Sys2Proof

/-- Format `T32` (R91): the four bytes of a frame, most significant first. -/
def frameBytes (w : Word) : List Byte :=
  [w.extractLsb' 24 8, w.extractLsb' 16 8, w.extractLsb' 8 8, w.extractLsb' 0 8]

/-- The word of a frame (R74): the first byte is the most significant. -/
def frameWord (c0 c1 c2 c3 : Byte) : Word :=
  c0 ++ c1 ++ c2 ++ c3

/-- Format `T16` (R92): a 16-bit word is zero-extended and sent as `T32`. -/
def zext16 (h : Half) : Word :=
  h.setWidth 32

/-- The handshake word of R98: high byte 0x64, low byte the handshake byte. -/
def handshakeWord (b : Byte) : Half :=
  0x6400#16 ||| b.setWidth 16

/-- The command of an opcode (R111). All sixteen opcodes are rows of the table. -/
def decodeOpcode (op : BitVec 4) : Instr :=
  match op.toNat with
  | 0x0 => .nop
  | 0x1 => .crcNew
  | 0x2 => .crcUpdate
  | 0x3 => .crcSum16
  | 0x4 => .ciphNew
  | 0x5 => .ciphEnc
  | 0x6 => .romBuild
  | 0x7 => .xfer
  | 0x8 => .xfer16
  | 0x9 => .xfer32
  | 0xA => .sendd
  | 0xB => .sendu
  | 0xC => .delay
  | 0xD => .reservedD
  | 0xE => .reservedE
  | _ => .upload

/-- A context with one fixed word (R96). -/
def decodeFixed (c : WireCtx) (word : Half) (i : Instr) (w : Word) : Except DecodeError Instr :=
  if w = zext16 word then .ok i else .error (.notTheFixedWord c)

/-- A context of format `T16` whose 16-bit word is open (R92, R96). -/
def decodeOpen16 (c : WireCtx) (mk : Half → Instr) (w : Word) : Except DecodeError Instr :=
  if w.extractLsb' 16 16 = 0#16 then .ok (mk (w.extractLsb' 0 16)) else .error (.upperHalfNotZero c)

/-- A word of the link in its context (R96, R104). -/
def decodeWire (c : WireCtx) (w : Word) : Except DecodeError Instr :=
  match c with
  | .poll => decodeFixed c 0x6200#16 .wPoll w
  | .pr1 => decodeFixed c 0x6102#16 .wPr1 w
  | .hdr => decodeOpen16 c .wHdr w
  | .hdrend => decodeFixed c 0x6200#16 .wHdrend w
  | .pr2 => decodeFixed c 0x6202#16 .wPr2 w
  | .pal => decodeFixed c 0x63D1#16 .wPal w
  | .hs => if w.extractLsb' 8 24 = 0x64#24 then .ok (.wHs (w.extractLsb' 0 8)) else .error .notTheHandshakeByte
  | .len => decodeOpen16 c .wLen w
  | .data => .ok (.wData w)
  | .crcreq => decodeFixed c 0x0065#16 .wCrcreq w
  | .crcgo => decodeFixed c 0x0066#16 .wCrcgo w
  | .crc => decodeOpen16 c .wCrc w

/-- The decoder. A command is one byte, of which the register `CMD` has the low four bits (R45, R110); a frame is four
bytes, most significant first (R90, R91). -/
def decode (c : Ctx) (bytes : List Byte) : Except DecodeError Instr :=
  match c, bytes with
  | .cmd, [b] => .ok (decodeOpcode (b.setWidth 4))
  | .wire c, [c0, c1, c2, c3] => decodeWire c (frameWord c0 c1 c2 c3)
  | _, _ => .error .wrongLength

/-- The opcode of a command (R111). -/
def Instr.opcode? : Instr → Option (BitVec 4)
  | .nop => some 0x0#4
  | .crcNew => some 0x1#4
  | .crcUpdate => some 0x2#4
  | .crcSum16 => some 0x3#4
  | .ciphNew => some 0x4#4
  | .ciphEnc => some 0x5#4
  | .romBuild => some 0x6#4
  | .xfer => some 0x7#4
  | .xfer16 => some 0x8#4
  | .xfer32 => some 0x9#4
  | .sendd => some 0xA#4
  | .sendu => some 0xB#4
  | .delay => some 0xC#4
  | .reservedD => some 0xD#4
  | .reservedE => some 0xE#4
  | .upload => some 0xF#4
  | .wPoll | .wPr1 | .wHdr _ | .wHdrend | .wPr2 | .wPal | .wHs _ | .wLen _ | .wData _ | .wCrcreq | .wCrcgo
  | .wCrc _ => none

/-- The context an instruction belongs to (R96, R110). -/
def Instr.ctx : Instr → Ctx
  | .nop | .crcNew | .crcUpdate | .crcSum16 | .ciphNew | .ciphEnc | .romBuild | .xfer | .xfer16 | .xfer32 | .sendd
  | .sendu | .delay | .reservedD | .reservedE | .upload => .cmd
  | .wPoll => .wire .poll
  | .wPr1 => .wire .pr1
  | .wHdr _ => .wire .hdr
  | .wHdrend => .wire .hdrend
  | .wPr2 => .wire .pr2
  | .wPal => .wire .pal
  | .wHs _ => .wire .hs
  | .wLen _ => .wire .len
  | .wData _ => .wire .data
  | .wCrcreq => .wire .crcreq
  | .wCrcgo => .wire .crcgo
  | .wCrc _ => .wire .crc

/-- The word of an instruction as its row of the opcode table numbers its bits: the opcode of a command, the 32-bit
frame of a wire word (R96, R111). -/
def Instr.word : Instr → Word
  | .nop => 0x0#32
  | .crcNew => 0x1#32
  | .crcUpdate => 0x2#32
  | .crcSum16 => 0x3#32
  | .ciphNew => 0x4#32
  | .ciphEnc => 0x5#32
  | .romBuild => 0x6#32
  | .xfer => 0x7#32
  | .xfer16 => 0x8#32
  | .xfer32 => 0x9#32
  | .sendd => 0xA#32
  | .sendu => 0xB#32
  | .delay => 0xC#32
  | .reservedD => 0xD#32
  | .reservedE => 0xE#32
  | .upload => 0xF#32
  | .wPoll => zext16 0x6200#16
  | .wPr1 => zext16 0x6102#16
  | .wHdr h => zext16 h
  | .wHdrend => zext16 0x6200#16
  | .wPr2 => zext16 0x6202#16
  | .wPal => zext16 0x63D1#16
  | .wHs b => zext16 (handshakeWord b)
  | .wLen n => zext16 n
  | .wData d => d
  | .wCrcreq => zext16 0x0065#16
  | .wCrcgo => zext16 0x0066#16
  | .wCrc c => zext16 c

/-- The encoder: the byte written to `CMD`, or the four bytes of the frame. -/
def encode (i : Instr) : List Byte :=
  match i.opcode? with
  | some op => [op.setWidth 8]
  | none => frameBytes i.word

/-- The contexts a frame is tried in where no context is given: the more bits a row of the opcode table fixes the
earlier, rows of equal weight in the order of first use of R96. DESIGN CHOICE (notes/assumptions/9.md): R104 says that
a frame cannot be classified by its bits; `step` never uses this list. -/
def tableOrder : List WireCtx :=
  [.poll, .pr1, .hdrend, .pr2, .pal, .crcreq, .crcgo, .hs, .hdr, .len, .crc, .data]

/-- The first instruction the decoder reads from the bytes in one of the contexts. -/
def decodeFirst (bytes : List Byte) : List WireCtx → Option Instr
  | [] => none
  | c :: cs =>
    match decode (.wire c) bytes with
    | .ok i => some i
    | .error _ => decodeFirst bytes cs

/-- The instruction the decoder reads from an instruction whose bits are `w`, numbered as the opcode table numbers
them: a command of up to one byte, or a frame of one 32-bit word, laid out most significant byte first (R91). -/
def decodeTableWord (nbits w : Nat) : Option Instr :=
  if nbits ≤ 8 then (decode .cmd [BitVec.ofNat 8 w]).toOption
  else decodeFirst (frameBytes (BitVec.ofNat 32 w)) tableOrder

end Sys2Proof
end

