-- ==== Sys2Proof/Config.lean ====
section
/-! DEFINITION. The fixed constants of 00_scope.md R9, the named parameters of R10, and the free values:
constants without a body, about which nothing can be proved. -/

namespace Sys2Proof.Config

/-- Right-shift feedback constant of the CRC (R9, R10, R130; 90_conflicts.md C1, decision D2). -/
abbrev crcFeedbackLsb : Half := 0xC37B#16
/-- The same polynomial in normal notation (R9, R130). -/
abbrev crcPolyNormal : Half := 0xDEC3#16
/-- CRC register after CRC.NEW (R9, R131). -/
abbrev crcInit : Half := 0xC387#16
/-- Multiplier of the generator (R9, R150). -/
abbrev lcgA : Word := 0x6F646573#32
/-- Increment of the generator (R9, R150). -/
abbrev lcgC : Word := 1#32
/-- The hardwired key (R9, R24). -/
abbrev key : Word := 0x43202F2F#32
/-- Initial position counter (R9, R23). -/
abbrev posInit : Word := 0xFDFFFF40#32
/-- Decrement of the position counter per word (R9, R150). -/
abbrev posStep : Word := 4#32
/-- Header region in bytes (R9, R64). -/
abbrev hdrBytes : Nat := 0xC0
/-- Header region in 16-bit words (R9, R46). -/
abbrev hdrWords : Nat := 96
/-- Least padded length (R9, R67). -/
abbrev minSize : Nat := 448
/-- Greatest padded length, and the room of the image memory (R9, R61, R67; 90_conflicts.md C3). -/
abbrev maxSize : Nat := 262144
/-- Subtracted from the payload word count in phase 9 (R9, R99). -/
abbrev lenBias : Half := 0x34#16
/-- The fixed delay in microseconds (R9, R287). -/
abbrev delayUs : Word := 62500#32
/-- Low byte of the cipher seed (R9, R101). -/
abbrev ivB0 : Byte := 0xD1#8

/-- FOLD_EOS of R10 and R274: is EndOfStream reported as TransportFailure? Decided false (D12). -/
abbrev foldEos : Bool := false
/-- HAS_CANCEL of R10 and R278: is there a cancel input? Decided false (D13): `Input` has no such move. -/
abbrev hasCancel : Bool := false
/-- DELAY_TOLERANCE of R10 and R288, OPEN (D18). The model keeps no time, so nothing reads it. -/
opaque delayTolerance : Nat
/-- BAUD of R10, OPEN (D19), outside the block: nothing reads it. -/
opaque baud : Nat

/-- FREE VALUE. How many bytes a link operation that did not complete had moved (R70, R71, R311; U7, U18).
The operation bounds it (0 to 4 written, 0 to 3 consumed). Applied to the counter `State.draws`. -/
opaque freeCount : Nat → Nat
/-- FREE VALUE. What the host reads where the spec calls the value unspecified (R300; U10).
Applied to the counter `State.draws`. -/
opaque freeWord : Nat → Word

end Sys2Proof.Config
end

