-- ==== Sys2Proof/Machine/State.lean ====
section
/-! DEFINITION. The machine's state as plain data (10_state.md R20 to R54), the faults and refusals, and the state
after reset. -/

namespace Sys2Proof.Machine

/-- `PHASE`, the block's program counter (R29). An enumeration, not an address (R30). -/
inductive Phase where
  | idle | discover | stabilize | pr1 | headers | pr2 | palette | handshake | fixedDelay | length | main | prepCrc
  | sendCrc | done | error | unit
  deriving DecidableEq, Repr

/-- The 4-bit code of a phase (R29). -/
def Phase.code : Phase → BitVec 4
  | .idle => 0#4
  | .discover => 1#4
  | .stabilize => 2#4
  | .pr1 => 3#4
  | .headers => 4#4
  | .pr2 => 5#4
  | .palette => 6#4
  | .handshake => 7#4
  | .fixedDelay => 8#4
  | .length => 9#4
  | .main => 10#4
  | .prepCrc => 11#4
  | .sendCrc => 12#4
  | .done => 13#4
  | .error => 14#4
  | .unit => 15#4

/-- The error record: the seven registers of R40. -/
structure ErrRecord where
  kind : BitVec 3
  sub : BitVec 2
  phase : BitVec 4
  sent : Half
  exp : Half
  mask : Half
  recv : Half
  deriving DecidableEq, Repr

/-- The record after reset and after an accepted command (R53, R204). -/
def ErrRecord.none : ErrRecord :=
  { kind := 0#3, sub := 0#2, phase := 0#4, sent := 0#16, exp := 0#16, mask := 0#16, recv := 0#16 }

/-- The error kinds of R270 with what each carries. -/
inductive ErrKind where
  /-- SizeOutOfRange, padded length below 448 (R271). -/
  | tooSmall
  /-- SizeOutOfRange, padded length above 262144 (R271). -/
  | tooLarge
  /-- TransportFailure on a write (R272). -/
  | writeFailed
  /-- TransportFailure on a read (R272). -/
  | readFailed
  /-- UnexpectedResponse with the word sent, the word expected, the mask and the word received (R273). -/
  | unexpected (sent exp mask recv : Half)
  /-- EndOfStream (R274). -/
  | endOfStream
  deriving DecidableEq, Repr

/-- What the transport's receive side holds, in order (R69, R71): delivered bytes, a reported read failure, the
closure of the stream. -/
inductive RxItem where
  | byte (b : Byte)
  | failure
  | closed
  deriving DecidableEq, Repr

/-- How a read of four bytes ends (R71). -/
inductive ReadAnswer where
  /-- Four bytes were taken; `rest` is left. -/
  | frame (c0 c1 c2 c3 : Byte) (rest : List RxItem)
  /-- The transport reports a failure after fewer than four bytes `got`. -/
  | failed (got : List Byte) (rest : List RxItem)
  /-- The transport closes after fewer than four bytes `got`. -/
  | ended (got : List Byte) (rest : List RxItem)
  /-- Fewer than four bytes are there and the stream is open: the read waits. -/
  | waiting
  deriving DecidableEq, Repr

/-- What the host may name: the registers of R45, then the flags, indices and store entries that it may read for
diagnosis (60_exceptions.md R281), to which R45 gives no number (notes/assumptions/30.md). -/
inductive HostReg where
  | stat | cmd | opa | opb | opc | opd | res | len | plen | nwords | prog | phase | errKind | errSub | errPhase
  | errSent | errExp | errMask | errRecv | crc | lcg | pos | key | seed | hsb | fcb | refused
  | rms | stab | hidx | pidx
  /-- Entry `H[i]` (R46). -/
  | h (i : Fin 96)
  /-- Entry `P[j]` (R47). -/
  | p (j : Fin 65488)
  deriving DecidableEq, Repr

/-- What an agent does in one step (00_scope.md R19). -/
inductive Input where
  /-- The block takes its own next step. -/
  | turn
  /-- The host writes a register (R45). A write to `cmd` issues a command (R110). -/
  | hostWrite (r : HostReg) (v : Word)
  /-- The host reads a register (R300). -/
  | hostRead (r : HostReg)
  /-- The host writes a byte of the image memory (R61). -/
  | hostImage (k : Nat) (b : Byte)
  /-- The transport delivers a byte, a failure or its closure (R71). -/
  | deliver (i : RxItem)
  /-- The transport will answer the next write with a failure (R70). -/
  | failNextWrite
  /-- The host drains or reopens the link (R312). While the block is busy that is another party on the link (R73). -/
  | drainLink
  /-- The reset input (R310); with `true` it lands while the block's next link write is in progress (R311). -/
  | reset (inWrite : Bool)
  deriving DecidableEq, Repr

/-- The observable events of R13. -/
inductive Obs where
  /-- Bytes put on `TX` by one write. -/
  | wrote (bytes : List Byte)
  /-- Bytes removed from `RX` by one read. -/
  | took (bytes : List Byte)
  /-- A delay, labelled with its nominal length in microseconds (R200). -/
  | delay (us : Word)
  /-- An upload finished with success (R239). -/
  | done
  /-- An error was raised, with its record (R280). -/
  | error (e : ErrRecord)
  deriving DecidableEq, Repr

/-- The image memory: the bytes that differ from what an unlisted address reads as, addresses strictly rising. -/
abbrev Memory := List Host.Cell

structure State where
  /-- `CRC` (R21). -/
  crc : Half
  /-- `LCG` (R22). -/
  lcg : Word
  /-- `POS` (R23). -/
  pos : Word
  /-- `SEED` (R25). -/
  seed : Byte
  /-- `HSB` (R26). -/
  hsb : Byte
  /-- `FCB` (R27). -/
  fcb : Byte
  /-- `OPA` (R28). -/
  opa : Word
  /-- `OPB` (R28). -/
  opb : Half
  /-- `OPC` (R28). -/
  opc : Half
  /-- `OPD` (R28). -/
  opd : Word
  /-- `RES` (R28). -/
  res : Word
  /-- `CMD`, the opcode of the last accepted command (R45, R110). -/
  cmd : BitVec 4
  /-- `LEN` (R41). -/
  len : Word
  /-- `PLEN` (R42). -/
  plen : BitVec 19
  /-- `NWORDS` (R43). -/
  nwords : Half
  /-- `PROG` (R44). -/
  prog : Half
  /-- `REFUSED` (R45, R113). -/
  refused : Bool
  /-- `PHASE` (R29). -/
  phase : Phase
  /-- The error record (R40). -/
  err : ErrRecord
  /-- `RMS` (R36). -/
  rms : Bool
  /-- `STAB` (R37). -/
  stab : BitVec 4
  /-- `HIDX` (R31). -/
  hidx : BitVec 7
  /-- `PIDX` (R32). -/
  pidx : Half
  /-- `SUB` (R33). -/
  sub : Bool
  /-- `WAIT` (R34). -/
  wait : Bool
  /-- `XHALF` (R35). -/
  xhalf : Bool
  /-- The header store `H` (R46). -/
  h : Vector Half 96
  /-- The payload store `P`: entries 0 to `NWORDS - 1` (R47). -/
  p : List Word
  /-- The image memory `IMG` (R61). -/
  img : Memory
  /-- The receive stream `RX` (R69), oldest first. -/
  rx : List RxItem
  /-- The transport's answer to the next write is a failure (R51, R70). The model's own field. -/
  txFail : Bool
  /-- The moves of the agents still to come (R19). The model's own field. -/
  inputs : List Input
  /-- The observable behaviour so far (R13), oldest first. The model's own field. -/
  trace : List Obs
  /-- What the host's last register read returned (R300). The model's own field. -/
  hostData : Word
  /-- How many free values have been drawn. The model's own field. -/
  draws : Nat
  deriving DecidableEq, Repr

/-- Why the machine stops. The spec's own errors are next states (R280), not faults. -/
inductive Fault where
  /-- Raised by phase 10 when `PIDX` is below `NWORDS` and `P[PIDX]` holds no value (R47: entries at index N and above
  hold no value). Safe: the model stops. No accepted image leads there. -/
  | payloadEntryAbsent
  deriving DecidableEq, Repr

/-- Why a step has no meaning. -/
inductive Refusal where
  /-- Raised by an arm of `exec` for an instruction without a meaning. Safe. No arm does so. -/
  | notModelled (mnemonic : String)
  /-- Raised by a wire word executed outside the phase of its row: R104 gives it no meaning there. Safe; `step` never
  does so, since it fetches by `PHASE`. -/
  | wireOutOfContext (mnemonic : String)
  /-- Raised when somebody other than the block uses the link while a command runs: R73 calls the behaviour undefined
  and R336 refuses such runs. Safe. -/
  | thirdPartyOnLink
  /-- Raised by `step` when the fetched bytes are no instruction. Safe; it never happens (`Laws.fetch_decodes`). -/
  | undecodable (e : DecodeError)
  deriving DecidableEq, Repr

/-- The state after reset (R53, R310, R314). DESIGN CHOICE, unsafe: the values that R53 leaves unspecified
(notes/assumptions/3.md and 4.md), and what the link holds at the start, since R53 and R310 only say that reset does not
touch the receive stream: `rx` is empty and `txFail` is false (notes/assumptions/29.md). The model's own fields `inputs`,
`trace`, `hostData` and `draws` start empty or at 0 (notes/assumptions/2.md, 22.md, 6.md). -/
def State.reset : State where
  crc := 0#16
  lcg := 0#32
  pos := 0#32
  seed := 0#8
  hsb := 0#8
  fcb := 0#8
  opa := 0#32
  opb := 0#16
  opc := 0#16
  opd := 0#32
  res := 0#32
  cmd := 0#4
  len := 0#32
  plen := 0#19
  nwords := 0#16
  prog := 0#16
  refused := false
  phase := .idle
  err := ErrRecord.none
  rms := false
  stab := 0#4
  hidx := 0#7
  pidx := 0#16
  sub := false
  wait := false
  xhalf := false
  h := Vector.replicate 96 0#16
  p := []
  img := []
  rx := []
  txFail := false
  inputs := []
  trace := []
  hostData := 0#32
  draws := 0

end Sys2Proof.Machine
end

