-- ==== Sys2Proof/Machine/Flags.lean ====
section
/-! DEFINITION. The status bits and the response comparison. The block has no arithmetic condition codes (10_state.md
R38): its flags are RMS, WAIT, XHALF, SUB, which are fields of State, and the three status bits here. -/

namespace Sys2Proof.Machine

/-- `STAT.BUSY`: `PHASE` is 1 to 12 or 15 (R39). -/
def Phase.isBusy : Phase → Bool
  | .idle | .done | .error => false
  | .discover | .stabilize | .pr1 | .headers | .pr2 | .palette | .handshake | .fixedDelay | .length | .main | .prepCrc
  | .sendCrc | .unit => true

def State.busy (s : State) : Bool :=
  s.phase.isBusy

/-- `STAT` (R39): bit 0 BUSY, bit 1 DONE, bit 2 ERR, each a function of `PHASE`. -/
def State.stat (s : State) : BitVec 3 :=
  match s.phase with
  | .idle => 0b000#3
  | .done => 0b010#3
  | .error => 0b100#3
  | .discover | .stabilize | .pr1 | .headers | .pr2 | .palette | .handshake | .fixedDelay | .length | .main | .prepCrc
  | .sendCrc | .unit => 0b001#3

/-- Response matching (30_encoding.md R95): both sides are masked, then compared. -/
def responseMatches (r expected mask : Half) : Bool :=
  (r &&& mask) == (expected &&& mask)

end Sys2Proof.Machine
end

