-- ==== Sys2Proof/Machine/Operands.lean ====
section
/-! DEFINITION. The operand forms: what a command reads from the operand registers (30_encoding.md R111) and the words
the sequencer assembles (R98 to R102). -/

namespace Sys2Proof.Machine

/-- `OPA[7:0]`, the operand of CRC.UPDATE; `OPA[31:8]` is ignored (40_crc.md R132). -/
def State.opaByte (s : State) : Byte :=
  s.opa.setWidth 8

/-- `OPA[15:0]`, the word of XFER16, SENDD and SENDU; `OPA[31:16]` is ignored (43_link_primitives.md R191). -/
def State.opaHalf (s : State) : Half :=
  s.opa.setWidth 16

/-- The handshake byte (R98, R230): `trunc_8(SEED + 0xFF + 0xFF + 0x11)`. -/
def handshakeByte (seed : Byte) : Byte :=
  seed + 0xFF#8 + 0xFF#8 + 0x11#8

/-- The length word (R99, R233): `trunc_16(N - 0x34)`. -/
def lengthWord (nwords : Half) : Half :=
  nwords - Config.lenBias

/-- The expected response to header word `i` (R100): `((96 - i) << 8) or 0x02`. -/
def headerResponse (hidx : BitVec 7) : Half :=
  (BitVec.ofNat 16 (96 - hidx.toNat) <<< 8) ||| 0x02#16

/-- The cipher seed word (R101): `(0xFF << 24) or (0xFF << 16) or (SEED << 8) or 0xD1`. -/
def cipherIv (seed : Byte) : Word :=
  0xFF#8 ++ 0xFF#8 ++ seed ++ Config.ivB0

/-- The four seal bytes, in order (R102). -/
def sealBytes (hsb fcb : Byte) : List Byte :=
  [hsb, fcb, 0xFF#8, 0xFF#8]

end Sys2Proof.Machine
end

