-- ==== Sys2Proof/Machine/Ops.lean ====
section
/-! DEFINITION. The named operations: the image memory (20_memory.md), taking an error (60_exceptions.md R280) and
leaving one by a new command (43_link_primitives.md R204), the link, the transfer, the checking primitives and the
delay. -/

namespace Sys2Proof.Machine

/-! ### Memory -/

/-- What an address reads as that the memory does not list. The spec gives the image no contents (R53): DESIGN CHOICE,
notes/assumptions/4.md. -/
def Memory.default : Byte := 0#8

def Memory.read : Memory → Nat → Byte
  | [], _ => Memory.default
  | (k, v) :: m, a => if k = a then v else Memory.read m a

/-- A write that keeps the canonical form: sorted, and no entry equal to the default. -/
def Memory.write : Memory → Nat → Byte → Memory
  | [], a, b => if b = Memory.default then [] else [(a, b)]
  | (k, v) :: m, a, b =>
    if a < k then (if b = Memory.default then (k, v) :: m else (a, b) :: (k, v) :: m)
    else if a = k then (if b = Memory.default then m else (k, b) :: m)
    else (k, v) :: Memory.write m a b

/-- The canonical form above a bound: addresses strictly rising from `lo`, no default byte listed. -/
def Memory.wfFrom (lo : Nat) : Memory → Bool
  | [] => true
  | (k, v) :: m => decide (lo ≤ k) && decide (v ≠ Memory.default) && Memory.wfFrom (k + 1) m

/-- The canonical form of a memory. -/
def Memory.wf (m : Memory) : Bool :=
  Memory.wfFrom 0 m

/-- Byte `k` of the padded image `PIMG` (R62): the image below `LEN`, zero from `LEN` on. The block reads it below the
padded length only (R77). -/
def paddedByte (img : Memory) (len : Word) (k : Nat) : Byte :=
  if k < len.toNat then Memory.read img k else 0#8

/-- `MemRead(addr, 2)` (R63): little-endian. -/
def paddedHalf (img : Memory) (len : Word) (addr : Nat) : Half :=
  paddedByte img len (addr + 1) ++ paddedByte img len addr

/-- `MemRead(addr, 4)` (R63): little-endian. -/
def paddedWord (img : Memory) (len : Word) (addr : Nat) : Word :=
  paddedByte img len (addr + 3) ++ paddedByte img len (addr + 2) ++ paddedByte img len (addr + 1)
    ++ paddedByte img len addr

/-! ### Errors and the life of a command -/

/-- The record an error leaves (R40, R270, R280): code, sub-code, the phase, and the four words of kind 3. EndOfStream
is folded into a read failure only if `Config.foldEos` (R274). -/
def ErrKind.record (k : ErrKind) (ph : Phase) : ErrRecord :=
  match k with
  | .tooSmall => { ErrRecord.none with kind := 1#3, sub := 1#2, phase := ph.code }
  | .tooLarge => { ErrRecord.none with kind := 1#3, sub := 2#2, phase := ph.code }
  | .writeFailed => { ErrRecord.none with kind := 2#3, sub := 1#2, phase := ph.code }
  | .readFailed => { ErrRecord.none with kind := 2#3, sub := 2#2, phase := ph.code }
  | .unexpected w e m r => { kind := 3#3, sub := 0#2, phase := ph.code, sent := w, exp := e, mask := m, recv := r }
  | .endOfStream =>
    if Config.foldEos then { ErrRecord.none with kind := 2#3, sub := 2#2, phase := ph.code }
    else { ErrRecord.none with kind := 4#3, sub := 0#2, phase := ph.code }

/-- `raise` (R280), the block's only exception entry: the record is written, XHALF and WAIT are cleared, PHASE becomes
ERROR, and nothing else changes (R281). -/
def raise (k : ErrKind) (s : State) : State :=
  { s with
    err := k.record s.phase
    xhalf := false
    wait := false
    phase := .error
    trace := s.trace ++ [.error (k.record s.phase)] }

/-- A command write that is accepted (R113, R204): REFUSED and the error record are cleared, and PHASE leaves DONE or
ERROR (R30, R282: the only way out of an error besides reset). -/
def accept (op : BitVec 4) (s : State) : State :=
  { s with refused := false, err := ErrRecord.none, cmd := op, phase := .idle }

/-- A command write that is refused (R112, R113): only REFUSED changes. -/
def refuse (s : State) : State :=
  { s with refused := true }

/-- The life of a command that is one step (R204): refused while busy, else accepted and done. -/
def unitAtomic (op : BitVec 4) (f : State → State) (s : State) : State :=
  if s.busy then refuse s else f (accept op s)

/-- The life of a command that uses the link or the timer (R204): accepted into PHASE UNIT; there `run` is its next
step; refused while anything else runs (R113). -/
def unitCommand (op : BitVec 4) (run : State → State) (s : State) : State :=
  if s.busy then (if s.phase = .unit ∧ s.cmd = op then run s else refuse s)
  else { accept op s with phase := .unit }

/-! ### The link -/

/-- The write half of a transfer (20_memory.md R70, 43_link_primitives.md R190): the frame goes to TX and XHALF is
set; if the transport answers with a failure, a free number of the four bytes (0 to 4) went out and TransportFailure
is raised. -/
def writeHalf (w : Word) (s : State) : State :=
  if s.txFail then
    raise .writeFailed
      { s with
        txFail := false
        draws := s.draws + 1
        trace := s.trace ++ [.wrote ((frameBytes w).take (Config.freeCount s.draws % 5))] }
  else { s with xhalf := true, trace := s.trace ++ [.wrote (frameBytes w)] }

/-- The delivered bytes at the front of the receive stream, and what follows them. -/
def rxSplit : List RxItem → List Byte × List RxItem
  | .byte b :: l => (b :: (rxSplit l).1, (rxSplit l).2)
  | l => ([], l)

/-- What `LinkRead4` (R71) meets. Four delivered bytes win over a failure or closure behind them
(60_exceptions.md R279). A closed stream stays closed. -/
def linkRead (rx : List RxItem) : ReadAnswer :=
  match rx with
  | .byte c0 :: .byte c1 :: .byte c2 :: .byte c3 :: rest => .frame c0 c1 c2 c3 rest
  | rx =>
    match rxSplit rx with
    | (got, .failure :: rest) => .failed got rest
    | (got, .closed :: rest) => .ended got (.closed :: rest)
    | _ => .waiting

/-- A read that did not complete (R71): a free number of bytes (0 to 3, at most those there) was removed, then the
error is raised. -/
def readAborted (k : ErrKind) (got : List Byte) (rest : List RxItem) (s : State) : State :=
  raise k
    { s with
      rx := (got.drop (Config.freeCount s.draws % 4)).map .byte ++ rest
      draws := s.draws + 1
      trace := s.trace ++ [.took (got.take (Config.freeCount s.draws % 4))] }

/-- The read half of a transfer (R71, R93, R190): four bytes are taken, XHALF is cleared and `k` goes on with the
response, the first two bytes; bytes 2 and 3 are dropped. A read that has to wait leaves the block where it is
(60_exceptions.md R293). -/
def readHalf (k : Half → State → State) (s : State) : State :=
  match linkRead s.rx with
  | .frame c0 c1 c2 c3 rest =>
    k (c0 ++ c1) { s with rx := rest, xhalf := false, trace := s.trace ++ [.took [c0, c1, c2, c3]] }
  | .failed got rest => readAborted .readFailed got rest s
  | .ended got rest => readAborted .endOfStream got rest s
  | .waiting => s

/-- The next half of the transfer of `w` (43_link_primitives.md R190); `k` goes on when it completes. -/
def transfer (w : Word) (k : Half → State → State) (s : State) : State :=
  if s.xhalf then readHalf k s else writeHalf w s

/-- `Delay(us)` (R200), one step: the event carries its nominal length, WAIT is 0 after it. -/
def delayEnds (us : Word) (s : State) : State :=
  { s with wait := false, trace := s.trace ++ [.delay us] }

/-- `send_demanding` (R193): one transfer, then UnexpectedResponse unless the response matches. -/
def sendDemanding (w expected mask : Half) (k : Half → State → State) (s : State) : State :=
  transfer (zext16 w)
    (fun r t => if responseMatches r expected mask then k r t else raise (.unexpected w expected mask r) t) s

/-- `send_until_response` (R194): transfers until the response matches, with a delay before each further attempt
unless `delay` is 0; WAIT is 1 while that delay is still to end. -/
def sendUntil (w expected mask : Half) (delay : Word) (k : Half → State → State) (s : State) : State :=
  if s.wait then delayEnds delay s
  else
    transfer (zext16 w)
      (fun r t =>
        if responseMatches r expected mask then k r t
        else if delay = 0#32 then t
        else { t with wait := true })
      s

end Sys2Proof.Machine
end

