-- ==== Sys2Proof/Machine/Link.lean ====
section
/-! DEFINITION. The commands that touch the link or the timer, NOP and the reserved opcodes (43_link_primitives.md,
30_encoding.md R112). -/

namespace Sys2Proof.Machine

/-- The end of a unit command that returns a response (R190, R204): RES gets it zero-extended, PHASE goes to IDLE. -/
def unitResult (r : Half) (s : State) : State :=
  { s with res := zext16 r, phase := .idle }

/-- The end of a unit command without a result (R192, R204). -/
def unitEnd (s : State) : State :=
  { s with phase := .idle }

/-- NOP (R203): accepted, and nothing else. -/
def execNop (s : State) : Host.Outcome State Fault Refusal :=
  .next (unitAtomic 0x0#4 id s)

/-- XFER of `OPA` (R190). -/
def execXfer (s : State) : Host.Outcome State Fault Refusal :=
  .next (unitCommand 0x7#4 (fun s => transfer s.opa unitResult s) s)

/-- XFER16 of `OPA[15:0]` (R191). -/
def execXfer16 (s : State) : Host.Outcome State Fault Refusal :=
  .next (unitCommand 0x8#4 (fun s => transfer (zext16 s.opaHalf) unitResult s) s)

/-- XFER32 of `OPA`, its response dropped (R192). -/
def execXfer32 (s : State) : Host.Outcome State Fault Refusal :=
  .next (unitCommand 0x9#4 (fun s => transfer s.opa (fun _ t => unitEnd t) s) s)

/-- SENDD with `OPA[15:0]`, `OPB`, `OPC` (R193). -/
def execSendd (s : State) : Host.Outcome State Fault Refusal :=
  .next (unitCommand 0xA#4 (fun s => sendDemanding s.opaHalf s.opb s.opc unitResult s) s)

/-- SENDU with `OPA[15:0]`, `OPB`, `OPC`, `OPD` (R194). -/
def execSendu (s : State) : Host.Outcome State Fault Refusal :=
  .next (unitCommand 0xB#4 (fun s => sendUntil s.opaHalf s.opb s.opc s.opd unitResult s) s)

/-- DELAY of `OPD` microseconds (R200). -/
def execDelay (s : State) : Host.Outcome State Fault Refusal :=
  .next (unitCommand 0xC#4 (fun s => unitEnd (delayEnds s.opd s)) s)

/-- Reserved opcode 0xD (R112): refused, busy or not. -/
def execReservedD (s : State) : Host.Outcome State Fault Refusal :=
  .next (refuse s)

/-- Reserved opcode 0xE (R112): refused, busy or not. -/
def execReservedE (s : State) : Host.Outcome State Fault Refusal :=
  .next (refuse s)

end Sys2Proof.Machine
end

