-- ==== Sys2Proof/Machine/Cipher.lean ====
section
/-! DEFINITION. The cipher unit (41_cipher.md): CIPH.NEW, CIPH.ENC. -/

namespace Sys2Proof.Machine

/-- The generator (R150, R155): `trunc_32(0x6F646573 * x + 1)`. -/
def lcgNext (x : Word) : Word :=
  Config.lcgA * x + Config.lcgC

/-- The word CIPH.ENC returns (R152, R153): it uses the new LCG and the old POS. -/
def cipherOut (lcg pos src : Word) : Word :=
  src ^^^ lcgNext lcg ^^^ pos ^^^ Config.key

/-- CIPH.NEW on the registers (R151). -/
def cipherStart (iv : Word) (s : State) : State :=
  { s with lcg := iv, pos := Config.posInit }

/-- What CIPH.ENC does to the registers (R152): LCG advances, POS goes down by 4, both modulo 2^32. -/
def cipherAdvance (s : State) : State :=
  { s with lcg := lcgNext s.lcg, pos := s.pos - Config.posStep }

/-- CIPH.NEW with `OPA` (R151). -/
def execCiphNew (s : State) : Host.Outcome State Fault Refusal :=
  .next (unitAtomic 0x4#4 (fun s => cipherStart s.opa s) s)

/-- CIPH.ENC with `OPA` (R152). -/
def execCiphEnc (s : State) : Host.Outcome State Fault Refusal :=
  .next (unitAtomic 0x5#4 (fun s => { cipherAdvance s with res := cipherOut s.lcg s.pos s.opa }) s)

end Sys2Proof.Machine
end

