-- ==== Sys2Proof/Machine/Crc.lean ====
section
/-! DEFINITION. The CRC unit (40_crc.md): CRC.NEW, CRC.UPDATE, CRC.SUM16. -/

namespace Sys2Proof.Machine

/-- One shift of the CRC register (R132): right by one, with the feedback constant when a 1 falls out. -/
def crcShift (c : Half) : Half :=
  if c.getLsbD 0 then (c >>> 1) ^^^ Config.crcFeedbackLsb else c >>> 1

/-- `n` shifts of the CRC register. -/
def crcShifts : Nat → Half → Half
  | 0, c => c
  | n + 1, c => crcShifts n (crcShift c)

/-- CRC.UPDATE on the register (R132): the byte is XORed in, then eight shifts. -/
def crcByte (c : Half) (b : Byte) : Half :=
  crcShifts 8 (c ^^^ b.setWidth 16)

/-- CRC.UPDATE over a byte sequence (R133), first byte first. -/
def crcBytes (c : Half) (bs : List Byte) : Half :=
  bs.foldl crcByte c

/-- CRC.NEW (R131). -/
def execCrcNew (s : State) : Host.Outcome State Fault Refusal :=
  .next (unitAtomic 0x1#4 (fun s => { s with crc := Config.crcInit }) s)

/-- CRC.UPDATE with `OPA[7:0]` (R132). -/
def execCrcUpdate (s : State) : Host.Outcome State Fault Refusal :=
  .next (unitAtomic 0x2#4 (fun s => { s with crc := crcByte s.crc s.opaByte }) s)

/-- CRC.SUM16 (R134): the register itself, and it does not change. -/
def execCrcSum16 (s : State) : Host.Outcome State Fault Refusal :=
  .next (unitAtomic 0x3#4 (fun s => { s with res := zext16 s.crc }) s)

end Sys2Proof.Machine
end

