-- ==== Sys2Proof/Machine/Rom.lean ====
section
/-! DEFINITION. The ROM container operation (42_rom_container.md): ROM.BUILD. -/

namespace Sys2Proof.Machine

/-- The padded length (R171): the next multiple of 16, over the integers. -/
def paddedLength (len : Word) : Nat :=
  (len.toNat + 15) / 16 * 16

/-- The size check on the padded length (R172): too large is tested first. -/
def sizeError (len : Word) : Option ErrKind :=
  if paddedLength len > Config.maxSize then some .tooLarge
  else if paddedLength len < Config.minSize then some .tooSmall
  else none

/-- The payload word count `N` (R174). -/
def payloadCount (len : Word) : Nat :=
  (paddedLength len - Config.hdrBytes) / 4

/-- The header view (R65, R173). -/
def imageHeader (img : Memory) (len : Word) : Vector Half 96 :=
  Vector.ofFn fun i => paddedHalf img len (2 * i.val)

/-- The payload view (R66, R174). -/
def imagePayload (img : Memory) (len : Word) : List Word :=
  (List.range (payloadCount len)).map fun j => paddedWord img len (Config.hdrBytes + 4 * j)

/-- The four bytes of payload word `j`, in ascending offset order (R76, R170). -/
def payloadBytesAt (img : Memory) (len : Word) (j : Nat) : List Byte :=
  [paddedByte img len (Config.hdrBytes + 4 * j), paddedByte img len (Config.hdrBytes + 4 * j + 1),
    paddedByte img len (Config.hdrBytes + 4 * j + 2), paddedByte img len (Config.hdrBytes + 4 * j + 3)]

/-- The CRC of the payload region (R175): CRC.NEW, then every byte of it in ascending offset order. -/
def imageCrc (img : Memory) (len : Word) : Half :=
  (List.range (payloadCount len)).foldl (fun c j => crcBytes c (payloadBytesAt img len j)) Config.crcInit

/-- What ROM.BUILD writes for an image of an accepted size (R170). -/
def loadImage (s : State) : State :=
  { s with
    plen := BitVec.ofNat 19 (paddedLength s.len)
    h := imageHeader s.img s.len
    nwords := BitVec.ofNat 16 (payloadCount s.len)
    p := imagePayload s.img s.len
    crc := imageCrc s.img s.len }

/-- ROM.BUILD (R170), then `k`; a wrong size raises SizeOutOfRange before anything is written (R176). -/
def buildThen (k : State → State) (s : State) : State :=
  match sizeError s.len with
  | some e => raise e s
  | none => k (loadImage s)

/-- ROM.BUILD as a command (R170, R204). -/
def execRomBuild (s : State) : Host.Outcome State Fault Refusal :=
  .next (unitAtomic 0x6#4 (buildThen id) s)

end Sys2Proof.Machine
end

