-- ==== Sys2Proof/Machine/Upload.lean ====
section
/-! DEFINITION. The multiboot sequencer (44_sequencer.md): UPLOAD and the twelve wire words. A wire word is executed in
the phase of its row (30_encoding.md R96, R104); each execution is one event: the write half, the read half with what
the response does (R245), or the delay of a polling loop. -/

namespace Sys2Proof.Machine

/-- The start of the phases after ROM.BUILD (R221). -/
def startPhases (s : State) : State :=
  { s with
    rms := false, stab := 0#4, hidx := 0#7, pidx := 0#16, prog := 0#16, sub := false, wait := false, xhalf := false
    phase := .discover }

/-- UPLOAD (R220, R221): ROM.BUILD, then phase 1. -/
def execUpload (s : State) : Host.Outcome State Fault Refusal :=
  .next (unitAtomic 0xF#4 (buildThen startPhases) s)

/-- A wire word runs in its phase only (R104). -/
def inPhase (ok : Bool) (mnemonic : String) (t : State) : Host.Outcome State Fault Refusal :=
  if ok then .next t else .refused (.wireOutOfContext mnemonic)

/-- What a response does in phase 1 (R222). -/
def discoverResponse (r : Half) (s : State) : State :=
  if r = 0x7202#16 then { s with stab := 0#4, phase := .stabilize }
  else if r = 0x0000#16 then
    (if s.rms then { s with stab := 0#4, phase := .stabilize } else { s with rms := true, wait := true })
  else if r = 0xFFFF#16 then { s with rms := true, wait := true }
  else { s with wait := true }

/-- What a response does in phase 2 (R223): it is compared with the constant 0x7202 (R242). -/
def stabilizeResponse (r : Half) (s : State) : State :=
  if r = 0x7202#16 then
    (if s.stab + 1#4 = 15#4 then { s with stab := 15#4, phase := .pr1 } else { s with stab := s.stab + 1#4 })
  else { s with stab := 0#4, wait := true }

/-- W.POLL in phases 1 and 2 (R222, R223). -/
def execWPoll (s : State) : Host.Outcome State Fault Refusal :=
  inPhase (s.phase = .discover || s.phase = .stabilize) "W.POLL"
    (if s.wait then delayEnds Config.delayUs s
     else transfer (zext16 0x6200#16)
       (fun r t => if t.phase = .discover then discoverResponse r t else stabilizeResponse r t) s)

/-- W.PR1 in phase 3 (R224). -/
def execWPr1 (s : State) : Host.Outcome State Fault Refusal :=
  inPhase (s.phase = .pr1) "W.PR1"
    (sendDemanding 0x6102#16 0x7202#16 0xFFFF#16 (fun _ t => { t with hidx := 0#7, phase := .headers }) s)

/-- W.HDR in phase 4 while `HIDX` is below 96 (R225). -/
def execWHdr (h : Half) (s : State) : Host.Outcome State Fault Refusal :=
  inPhase (s.phase = .headers && decide (s.hidx.toNat < 96)) "W.HDR"
    (sendDemanding h (headerResponse s.hidx) 0xFFFF#16 (fun _ t => { t with hidx := t.hidx + 1#7 }) s)

/-- W.HDREND in phase 4 after the header words (R226). -/
def execWHdrend (s : State) : Host.Outcome State Fault Refusal :=
  inPhase (s.phase = .headers && decide (96 ≤ s.hidx.toNat)) "W.HDREND"
    (sendDemanding 0x6200#16 0x0002#16 0xFFFF#16 (fun _ t => { t with phase := .pr2 }) s)

/-- W.PR2 in phase 5 (R227). -/
def execWPr2 (s : State) : Host.Outcome State Fault Refusal :=
  inPhase (s.phase = .pr2) "W.PR2"
    (sendDemanding 0x6202#16 0x7202#16 0xFFFF#16 (fun _ t => { t with phase := .palette }) s)

/-- The end of phase 6 and the entry to phase 7 (R229, R230): the seed is recorded and the handshake byte computed. -/
def recordSeed (r : Half) (s : State) : State :=
  { s with seed := r.setWidth 8, hsb := handshakeByte (r.setWidth 8), phase := .handshake }

/-- W.PAL in phase 6 (R228, R229, R230). -/
def execWPal (s : State) : Host.Outcome State Fault Refusal :=
  inPhase (s.phase = .palette) "W.PAL" (sendUntil 0x63D1#16 0x7300#16 0xFF00#16 0#32 recordSeed s)

/-- W.HS in phase 7 (R231). -/
def execWHs (b : Byte) (s : State) : Host.Outcome State Fault Refusal :=
  inPhase (s.phase = .handshake) "W.HS"
    (sendDemanding (handshakeWord b) 0x7300#16 0xFF00#16 (fun _ t => { t with phase := .fixedDelay }) s)

/-- Phase 8 (R232): the fixed delay, a step of the sequencer without a word. -/
def fixedDelayStep (s : State) : State :=
  { delayEnds Config.delayUs s with phase := .length }

/-- The end of phase 9 and the entry to phase 10 (R233, R234): the final CRC byte is recorded and the cipher
started. -/
def startMain (r : Half) (s : State) : State :=
  { cipherStart (cipherIv s.seed) s with fcb := r.setWidth 8, pidx := 0#16, prog := 0#16, phase := .main }

/-- W.LEN in phase 9 (R233). -/
def execWLen (n : Half) (s : State) : Host.Outcome State Fault Refusal :=
  inPhase (s.phase = .length) "W.LEN" (sendDemanding n 0x7300#16 0xFF00#16 startMain s)

/-- The end of the loop of phase 10 (R234). -/
def leaveMain (s : State) : State :=
  { s with sub := false, phase := .prepCrc }

/-- A data transfer that completed (R234): the response is discarded and the indices advance. -/
def dataSent (s : State) : State :=
  if s.pidx + 1#16 = s.nwords then leaveMain { s with pidx := s.pidx + 1#16, prog := s.pidx + 1#16 }
  else { s with pidx := s.pidx + 1#16, prog := s.pidx + 1#16 }

/-- W.DATA in phase 10 (R234): the cipher advances with the write half, before the transfer. -/
def execWData (d : Word) (s : State) : Host.Outcome State Fault Refusal :=
  inPhase (s.phase = .main && decide (s.pidx.toNat < s.nwords.toNat)) "W.DATA"
    (transfer d (fun _ t => dataSent t) (if s.xhalf then s else cipherAdvance s))

/-- W.CRCREQ in phase 11 while `SUB` is 0 (R235). -/
def execWCrcreq (s : State) : Host.Outcome State Fault Refusal :=
  inPhase (s.phase = .prepCrc && !s.sub) "W.CRCREQ"
    (sendUntil 0x0065#16 0x0075#16 0x00FF#16 Config.delayUs (fun _ t => { t with sub := true }) s)

/-- The end of phase 11 and the entry to phase 12 (R236, R237): the four seal bytes are fed to the CRC. -/
def sealCrc (s : State) : State :=
  { s with crc := crcBytes s.crc (sealBytes s.hsb s.fcb), phase := .sendCrc }

/-- W.CRCGO in phase 11 while `SUB` is 1 (R236, R237). -/
def execWCrcgo (s : State) : Host.Outcome State Fault Refusal :=
  inPhase (s.phase = .prepCrc && s.sub) "W.CRCGO"
    (sendDemanding 0x0066#16 0x0075#16 0x00FF#16 (fun _ t => sealCrc t) s)

/-- The end of an upload (R238, R239). -/
def uploadDone (s : State) : State :=
  { s with phase := .done, trace := s.trace ++ [.done] }

/-- W.CRC in phase 12 (R238): the peer must echo the CRC. -/
def execWCrc (c : Half) (s : State) : Host.Outcome State Fault Refusal :=
  inPhase (s.phase = .sendCrc) "W.CRC" (sendDemanding c c 0xFFFF#16 (fun _ t => uploadDone t) s)

end Sys2Proof.Machine
end

