-- ==== Sys2Proof/Machine/Dispatch.lean ====
section
/-! DEFINITION. The dispatch: one arm for each constructor of `Instr`. -/

namespace Sys2Proof.Machine

def exec (i : Instr) (s : State) : Host.Outcome State Fault Refusal :=
  match i with
  | .nop => Sys2Proof.Machine.execNop s
  | .crcNew => Sys2Proof.Machine.execCrcNew s
  | .crcUpdate => Sys2Proof.Machine.execCrcUpdate s
  | .crcSum16 => Sys2Proof.Machine.execCrcSum16 s
  | .ciphNew => Sys2Proof.Machine.execCiphNew s
  | .ciphEnc => Sys2Proof.Machine.execCiphEnc s
  | .romBuild => Sys2Proof.Machine.execRomBuild s
  | .xfer => Sys2Proof.Machine.execXfer s
  | .xfer16 => Sys2Proof.Machine.execXfer16 s
  | .xfer32 => Sys2Proof.Machine.execXfer32 s
  | .sendd => Sys2Proof.Machine.execSendd s
  | .sendu => Sys2Proof.Machine.execSendu s
  | .delay => Sys2Proof.Machine.execDelay s
  | .reservedD => Sys2Proof.Machine.execReservedD s
  | .reservedE => Sys2Proof.Machine.execReservedE s
  | .upload => Sys2Proof.Machine.execUpload s
  | .wPoll => Sys2Proof.Machine.execWPoll s
  | .wPr1 => Sys2Proof.Machine.execWPr1 s
  | .wHdr h => Sys2Proof.Machine.execWHdr h s
  | .wHdrend => Sys2Proof.Machine.execWHdrend s
  | .wPr2 => Sys2Proof.Machine.execWPr2 s
  | .wPal => Sys2Proof.Machine.execWPal s
  | .wHs b => Sys2Proof.Machine.execWHs b s
  | .wLen n => Sys2Proof.Machine.execWLen n s
  | .wData d => Sys2Proof.Machine.execWData d s
  | .wCrcreq => Sys2Proof.Machine.execWCrcreq s
  | .wCrcgo => Sys2Proof.Machine.execWCrcgo s
  | .wCrc c => Sys2Proof.Machine.execWCrc c s

end Sys2Proof.Machine
end

