-- ==== Sys2Proof/Machine/Fetch.lean ====
section
/-! DEFINITION. Fetching. The block has no instruction memory (00_scope.md R3): its next instruction is the command the
host writes to `CMD` (30_encoding.md R110), the unit command that runs in PHASE UNIT (10_state.md R29), or the word that
PHASE and the sub-indices name (R104, 44_sequencer.md R245). -/

namespace Sys2Proof.Machine

/-- The agents' next move: the head of the schedule, the block's turn where it is empty. -/
def State.nextMove (s : State) : Input :=
  s.inputs.headD .turn

/-- Take the agents' next move off the schedule. -/
def State.pop (s : State) : State :=
  { s with inputs := s.inputs.tail }

/-- The data word of phase 10 (R234): before the write half what CIPH.ENC will return, after it what it returned. -/
def dataWord (s : State) (src : Word) : Word :=
  if s.xhalf then src ^^^ s.lcg ^^^ (s.pos + Config.posStep) ^^^ Config.key else cipherOut s.lcg s.pos src

/-- The word the sequencer is at, with its context (R96, R245). Phase 8 has none. -/
def nextWire (s : State) : Option (WireCtx × Word) :=
  match s.phase with
  | .discover | .stabilize => some (.poll, zext16 0x6200#16)
  | .pr1 => some (.pr1, zext16 0x6102#16)
  | .headers =>
    if hi : s.hidx.toNat < 96 then some (.hdr, zext16 s.h[s.hidx.toNat]) else some (.hdrend, zext16 0x6200#16)
  | .pr2 => some (.pr2, zext16 0x6202#16)
  | .palette => some (.pal, zext16 0x63D1#16)
  | .handshake => some (.hs, zext16 (handshakeWord s.hsb))
  | .length => some (.len, zext16 (lengthWord s.nwords))
  | .main =>
    if s.pidx.toNat < s.nwords.toNat then (s.p[s.pidx.toNat]?).map fun src => (.data, dataWord s src) else none
  | .prepCrc => if s.sub then some (.crcgo, zext16 0x0066#16) else some (.crcreq, zext16 0x0065#16)
  | .sendCrc => some (.crc, zext16 s.crc)
  | .idle | .fixedDelay | .done | .error | .unit => none

/-- The bytes the block's own next step runs, with their context. -/
def blockFetch (s : State) : Option (Ctx × List Byte) :=
  if s.phase = .unit then some (.cmd, [s.cmd.setWidth 8])
  else (nextWire s).map fun x => (.wire x.1, frameBytes x.2)

/-- The bytes of the next instruction, if the next step runs one. A command write while the block is busy is refused
before it is an instruction (R113). -/
def fetchBytes (s : State) : Option (Ctx × List Byte) :=
  match s.nextMove with
  | .turn => blockFetch s
  | .hostWrite r v => if r = .cmd ∧ s.busy = false then some (.cmd, [v.setWidth 8]) else none
  | .hostRead _ | .hostImage _ _ | .deliver _ | .failNextWrite | .drainLink | .reset _ => none

/-- The word whose write half is the block's next step, if it is one. -/
def pendingWord (s : State) : Option Word :=
  if s.xhalf || s.wait then none
  else if s.phase = .unit then
    match s.cmd.toNat with
    | 0x7 => some s.opa
    | 0x8 => some (zext16 s.opaHalf)
    | 0x9 => some s.opa
    | 0xA => some (zext16 s.opaHalf)
    | 0xB => some (zext16 s.opaHalf)
    | _ => none
  else (nextWire s).map Prod.snd

/-- The host is about to write this value to `CMD`, and the block is not busy. -/
def placeCommand (w : Nat) (s : State) : State :=
  { s with phase := if s.busy then .idle else s.phase, inputs := .hostWrite .cmd (BitVec.ofNat 32 w) :: s.inputs }

/-- The sequencer is at this wire word, before its write half: PHASE, the sub-indices and the register the word comes
from. -/
def placeWire (i : Instr) (s : State) : State :=
  let s := { s with wait := false, xhalf := false, inputs := .turn :: s.inputs }
  match i with
  | .nop | .crcNew | .crcUpdate | .crcSum16 | .ciphNew | .ciphEnc | .romBuild | .xfer | .xfer16 | .xfer32 | .sendd
  | .sendu | .delay | .reservedD | .reservedE | .upload => s
  | .wPoll => { s with phase := .discover }
  | .wPr1 => { s with phase := .pr1 }
  | .wHdr h => { s with phase := .headers, hidx := 0#7, h := s.h.set 0 h }
  | .wHdrend => { s with phase := .headers, hidx := 96#7 }
  | .wPr2 => { s with phase := .pr2 }
  | .wPal => { s with phase := .palette }
  | .wHs b => { s with phase := .handshake, hsb := b }
  | .wLen n => { s with phase := .length, nwords := n + Config.lenBias }
  | .wData d =>
    { s with
      phase := .main, pidx := 0#16, nwords := 1#16
      p := [d ^^^ lcgNext s.lcg ^^^ s.pos ^^^ Config.key] }
  | .wCrcreq => { s with phase := .prepCrc, sub := false }
  | .wCrcgo => { s with phase := .prepCrc, sub := true }
  | .wCrc c => { s with phase := .sendCrc, crc := c }

end Sys2Proof.Machine
end

