-- ==== Sys2Proof/Machine/HostPort.lean ====
section
/-! DEFINITION. The steps that run no instruction: the host port (10_state.md R45, 60_exceptions.md R300), the
transport's deliveries (20_memory.md R71), the reset input (70_reset_and_hazards.md R310, R311), and the block's turn
where no word is next (R232, R314). -/

namespace Sys2Proof.Machine

/-- The host register numbers (R45); what R281 adds for diagnosis has none. -/
def HostReg.number : HostReg → Option Nat
  | .stat => some 0
  | .cmd => some 1
  | .opa => some 2
  | .opb => some 3
  | .opc => some 4
  | .opd => some 5
  | .res => some 6
  | .len => some 7
  | .plen => some 8
  | .nwords => some 9
  | .prog => some 10
  | .phase => some 11
  | .errKind => some 12
  | .errSub => some 13
  | .errPhase => some 14
  | .errSent => some 15
  | .errExp => some 16
  | .errMask => some 17
  | .errRecv => some 18
  | .crc => some 19
  | .lcg => some 20
  | .pos => some 21
  | .key => some 22
  | .seed => some 23
  | .hsb => some 24
  | .fcb => some 25
  | .refused => some 26
  | .rms | .stab | .hidx | .pidx | .h _ | .p _ => none

/-- The width of a host register (R45, R31, R32, R36, R37, R46, R47). -/
def HostReg.width : HostReg → Nat
  | .refused | .rms => 1
  | .errSub => 2
  | .stat | .errKind => 3
  | .cmd | .phase | .errPhase | .stab => 4
  | .hidx => 7
  | .seed | .hsb | .fcb => 8
  | .opb | .opc | .nwords | .prog | .errSent | .errExp | .errMask | .errRecv | .crc | .pidx | .h _ => 16
  | .plen => 19
  | .opa | .opd | .res | .len | .lcg | .pos | .key | .p _ => 32

/-- The value a register holds, zero-extended; `CMD` is write-only (R45), and an entry of `P` that is not
there holds no value (R47). -/
def regValue (r : HostReg) (s : State) : Option Word :=
  match r with
  | .stat => some (s.stat.setWidth 32)
  | .cmd => none
  | .opa => some s.opa
  | .opb => some (zext16 s.opb)
  | .opc => some (zext16 s.opc)
  | .opd => some s.opd
  | .res => some s.res
  | .len => some s.len
  | .plen => some (s.plen.setWidth 32)
  | .nwords => some (zext16 s.nwords)
  | .prog => some (zext16 s.prog)
  | .phase => some (s.phase.code.setWidth 32)
  | .errKind => some (s.err.kind.setWidth 32)
  | .errSub => some (s.err.sub.setWidth 32)
  | .errPhase => some (s.err.phase.setWidth 32)
  | .errSent => some (zext16 s.err.sent)
  | .errExp => some (zext16 s.err.exp)
  | .errMask => some (zext16 s.err.mask)
  | .errRecv => some (zext16 s.err.recv)
  | .crc => some (zext16 s.crc)
  | .lcg => some s.lcg
  | .pos => some s.pos
  | .key => some Config.key
  | .seed => some (s.seed.setWidth 32)
  | .hsb => some (s.hsb.setWidth 32)
  | .fcb => some (s.fcb.setWidth 32)
  | .refused => some (if s.refused then 1#32 else 0#32)
  | .rms => some (if s.rms then 1#32 else 0#32)
  | .stab => some (s.stab.setWidth 32)
  | .hidx => some (s.hidx.setWidth 32)
  | .pidx => some (zext16 s.pidx)
  | .h i => some (zext16 s.h[i.val])
  | .p j => s.p[j.val]?

/-- The registers coherent while the block is busy (R300); KEY reads as its constant at all times (R24). -/
def HostReg.alwaysCoherent : HostReg → Bool
  | .stat | .phase | .prog | .refused | .key => true
  | .cmd | .opa | .opb | .opc | .opd | .res | .len | .plen | .nwords | .errKind | .errSub | .errPhase | .errSent
  | .errExp | .errMask | .errRecv | .crc | .lcg | .pos | .seed | .hsb | .fcb | .rms | .stab | .hidx | .pidx | .h _
  | .p _ => false

/-- What the host reads from a register where the spec says what: none for `CMD` and an entry of `P` without a value, and
none for a register that is not coherent while the block is busy (R300). A register of R281 reads as what it holds
whenever the block is not busy, after an error or not (notes/assumptions/30.md). -/
def hostView (r : HostReg) (s : State) : Option Word :=
  if s.busy && !r.alwaysCoherent then none else regValue r s

/-- A register read of the host (R300). Where the spec gives no value it is a free value of the register's width. -/
def hostRead (r : HostReg) (s : State) : State :=
  match hostView r s with
  | some v => { s with hostData := v }
  | none =>
    { s with
      hostData := BitVec.ofNat 32 ((Config.freeWord s.draws).toNat % 2 ^ r.width)
      draws := s.draws + 1 }

/-- A register write of the host that is no accepted command. While busy a write to `CMD` is refused (R113) and every
other write ignored (R300); a write to a read-only register is ignored (R45); a register takes the bits it has. -/
def hostWrite (r : HostReg) (v : Word) (s : State) : State :=
  if s.busy then (if r = .cmd then refuse s else s)
  else
    match r with
    | .opa => { s with opa := v }
    | .opb => { s with opb := v.setWidth 16 }
    | .opc => { s with opc := v.setWidth 16 }
    | .opd => { s with opd := v }
    | .len => { s with len := v }
    | .stat | .cmd | .res | .plen | .nwords | .prog | .phase | .errKind | .errSub | .errPhase | .errSent | .errExp
    | .errMask | .errRecv | .crc | .lcg | .pos | .key | .seed | .hsb | .fcb | .refused | .rms | .stab | .hidx | .pidx
    | .h _ | .p _ => s

/-- A write to the image memory (R61): ignored while busy (R300); bytes beyond 262143 are not stored. -/
def hostImage (k : Nat) (b : Byte) (s : State) : State :=
  if s.busy then s else if k < Config.maxSize then { s with img := Memory.write s.img k b } else s

/-- The reset values of the block (R310), the link and the schedule left as they are (R53, R311). -/
def resetBlock (s : State) : State :=
  { State.reset with
    rx := s.rx, txFail := s.txFail, inputs := s.inputs, trace := s.trace, hostData := s.hostData, draws := s.draws }

/-- The reset input (R310). If it lands while a link write is in progress a free number of the frame's bytes went out
(R311). -/
def resetInput (inWrite : Bool) (s : State) : State :=
  match (if inWrite then pendingWord s else none) with
  | none => resetBlock s
  | some w =>
    resetBlock
      { s with
        draws := s.draws + 1
        trace := s.trace ++ [.wrote ((frameBytes w).take (Config.freeCount s.draws % 5))] }

/-- The block's turn where no instruction is next: the delay of phase 8 (R232), the end of the loop of phase 10 (R234),
and no step at all in IDLE, DONE and ERROR (R283, R314). -/
def turnWithoutWord (s : State) : Host.Outcome State Fault Refusal :=
  match s.phase with
  | .fixedDelay => .next (fixedDelayStep s)
  | .main => if s.pidx.toNat < s.nwords.toNat then .fault .payloadEntryAbsent else .next (leaveMain s)
  | .idle | .done | .error | .unit | .discover | .stabilize | .pr1 | .headers | .pr2 | .palette | .handshake | .length
  | .prepCrc | .sendCrc => .next s

/-- A move that runs no instruction. -/
def otherMove (i : Input) (s : State) : Host.Outcome State Fault Refusal :=
  match i with
  | .turn => turnWithoutWord s
  | .hostWrite r v => .next (hostWrite r v s)
  | .hostRead r => .next (hostRead r s)
  | .hostImage k b => .next (hostImage k b s)
  | .deliver x => .next { s with rx := s.rx ++ [x] }
  | .failNextWrite => .next { s with txFail := true }
  | .drainLink => if s.busy then .refused .thirdPartyOnLink else .next { s with rx := [] }
  | .reset w => .next (resetInput w s)

/-- The step of a state whose next move runs no instruction. -/
def otherStep (s : State) : Host.Outcome State Fault Refusal :=
  otherMove s.nextMove s.pop

end Sys2Proof.Machine
end

