-- ==== Sys2Proof/Machine/Step.lean ====
section
/-! DEFINITION. One step: one event of 00_scope.md R13, made by the agent whose move is next (R19). -/

namespace Sys2Proof.Machine

/-- One step. The move at the head of the schedule is made, or the block's turn where the schedule is empty; if it runs
an instruction, the instruction's bytes are decoded in their context and executed. -/
def step (s : State) : Host.Outcome State Fault Refusal :=
  match fetchBytes s with
  | none => otherStep s
  | some (c, bytes) =>
    match decode c bytes with
    | .ok i => exec i s.pop
    | .error e => .refused (.undecodable e)

/-- The state from which the very next step runs the instruction with these bits: a command is about to be written to
`CMD`; the sequencer stands at a wire word (notes/assumptions/2.md and 9.md). -/
def State.withFetchWord (s : State) (nbits w : Nat) : State :=
  if nbits ≤ 8 then placeCommand w s
  else
    match decodeTableWord nbits w with
    | some i => placeWire i s
    | none => s

end Sys2Proof.Machine
end

