-- ==== Sys2Proof/Safety.lean ====
section
/-! DEFINITION. What counts as a sound state and a safe run, in the terms the statements use. -/

namespace Sys2Proof

open Sys2Proof.Machine

/-- The byte view of the payload (20_memory.md R76): each word least significant byte first. -/
def payloadBytes (p : List Word) : List Byte :=
  p.flatMap fun w => [w.extractLsb' 0 8, w.extractLsb' 8 8, w.extractLsb' 16 8, w.extractLsb' 24 8]

/-- The generator applied `k` times (41_cipher.md R155). -/
def lcgAfter : Nat → Word → Word
  | 0, x => x
  | k + 1, x => lcgNext (lcgAfter k x)

/-- The position counter after `k` words (41_cipher.md R154). -/
def posAfter (k : Nat) : Word :=
  0xFDFFFF40#32 - BitVec.ofNat 32 (4 * k)

/-- Phases 1 to 12 (10_state.md R29). -/
def Machine.Phase.inUpload (ph : Phase) : Bool :=
  decide (1 ≤ ph.code.toNat) && decide (ph.code.toNat ≤ 12)

/-- The transfers of phase 10 whose cipher word has been made: those completed, and the one in flight (R234). -/
def cipherWords (s : State) : Nat :=
  s.pidx.toNat + (if s.phase = .main ∧ s.xhalf = true then 1 else 0)

/-- The control part of a sound state: flags, indices and the error record. -/
structure ControlSound (s : State) : Prop where
  /-- Nothing is in flight while no command runs (R34, R35, R280). -/
  quiet : s.busy = false → s.xhalf = false ∧ s.wait = false
  /-- `PROG` always equals `PIDX` (R44). -/
  progress : s.prog = s.pidx
  /-- `HIDX` is 0 to 96 (R31). -/
  headerIndex : s.hidx.toNat ≤ 96
  /-- The record is valid in ERROR, with one of the four kinds, and clear elsewhere (R40, R204, R280). -/
  record : if s.phase = .error then 1 ≤ s.err.kind.toNat ∧ s.err.kind.toNat ≤ 4 else s.err = ErrRecord.none
  /-- A delay is pending only in the polling loops of phases 1, 2 and 11 and in SENDU (R34), and no transfer is in
  flight then. -/
  waiting : s.wait = true →
    s.xhalf = false ∧
      (s.phase = .discover ∨ s.phase = .stabilize ∨ (s.phase = .prepCrc ∧ s.sub = false) ∨
        (s.phase = .unit ∧ s.cmd = 0xB#4))
  /-- Phase 8 has no transfer (R232), and only the link commands run in PHASE UNIT (R29). -/
  inFlight : s.xhalf = true → s.phase ≠ .fixedDelay ∧ (s.phase = .unit → s.cmd ≠ 0xC#4)
  unitCommand : s.phase = .unit → 7 ≤ s.cmd.toNat ∧ s.cmd.toNat ≤ 12
  /-- The stabilize counter is below 15 while phase 2 runs (R37, R223). -/
  stabilizing : s.phase = .stabilize → s.stab.toNat < 15

/-- The data part of a sound state: what a running or finished upload holds (44_sequencer.md R243). -/
structure UploadSound (s : State) : Prop where
  /-- The image was accepted and split (R42, R43, R47, R67, R174). -/
  geometry : s.phase.inUpload = true ∨ s.phase = .done →
    448 ≤ s.plen.toNat ∧ s.plen.toNat ≤ 262144 ∧ s.plen.toNat % 16 = 0 ∧
      4 * s.nwords.toNat + 192 = s.plen.toNat ∧ s.p.length = s.nwords.toNat
  /-- Before phase 10 ends at least one word is left to send, after it none (R234). -/
  sending : s.phase = .main → s.pidx.toNat < s.nwords.toNat
  sent : s.phase = .prepCrc ∨ s.phase = .sendCrc ∨ s.phase = .done → s.pidx = s.nwords
  /-- The CRC is that of exactly the payload bytes in order, and sealed once, on entry to phase 12 (R136, R137, R243). -/
  payloadCrc : s.phase.inUpload = true → s.phase ≠ .sendCrc → s.crc = crcBytes 0xC387#16 (payloadBytes s.p)
  sealedCrc : s.phase = .sendCrc ∨ s.phase = .done →
    s.crc = crcBytes 0xC387#16 (payloadBytes s.p ++ [s.hsb, s.fcb, 0xFF#8, 0xFF#8])
  /-- The handshake byte is made from the seed (R98). -/
  handshake : 7 ≤ s.phase.code.toNat → s.phase.code.toNat ≤ 13 → s.hsb = s.seed + 0x0F#8
  /-- The cipher was started once and invoked exactly once per word, in order (R154, R157, R243). -/
  cipher : s.phase = .main ∨ s.phase = .prepCrc ∨ s.phase = .sendCrc ∨ s.phase = .done →
    s.lcg = lcgAfter (cipherWords s) (0xFFFF#16 ++ s.seed ++ 0xD1#8) ∧ s.pos = posAfter (cipherWords s)

/-- A sound state: control, data, and the canonical form of the image memory. -/
structure Sound (s : State) : Prop where
  control : ControlSound s
  upload : UploadSound s
  memory : Memory.wf s.img = true

/-- Bytes put on the link by an observable event (R13). -/
def Machine.Obs.txBytes : Obs → List Byte
  | .wrote bs => bs
  | .took _ | .delay _ | .done | .error _ => []

/-- The transmit stream `TX` (20_memory.md R69, R81): the bytes written, in order. -/
def txStream (s : State) : List Byte :=
  s.trace.flatMap Obs.txBytes

/-- The instruction is the one that runs: a link command in PHASE UNIT under its opcode, a wire word in the phase of its
row (10_state.md R29, 30_encoding.md R96). -/
def inPlace (i : Instr) (s : State) : Bool :=
  match i with
  | .xfer => s.phase = .unit && s.cmd = 0x7#4
  | .xfer16 => s.phase = .unit && s.cmd = 0x8#4
  | .xfer32 => s.phase = .unit && s.cmd = 0x9#4
  | .sendd => s.phase = .unit && s.cmd = 0xA#4
  | .sendu => s.phase = .unit && s.cmd = 0xB#4
  | .wPoll => s.phase = .discover || s.phase = .stabilize
  | .wPr1 => s.phase = .pr1
  | .wHdr _ => s.phase = .headers && decide (s.hidx.toNat < 96)
  | .wHdrend => s.phase = .headers && decide (96 ≤ s.hidx.toNat)
  | .wPr2 => s.phase = .pr2
  | .wPal => s.phase = .palette
  | .wHs _ => s.phase = .handshake
  | .wLen _ => s.phase = .length
  | .wData _ => s.phase = .main && decide (s.pidx.toNat < s.nwords.toNat)
  | .wCrcreq => s.phase = .prepCrc && !s.sub
  | .wCrcgo => s.phase = .prepCrc && s.sub
  | .wCrc _ => s.phase = .sendCrc
  | .nop | .crcNew | .crcUpdate | .crcSum16 | .ciphNew | .ciphEnc | .romBuild | .delay | .reservedD | .reservedE
  | .upload => false

/-- The frame an instruction in its place writes (30_encoding.md R91, R92): a wire word its own, a unit command that of
its operand. -/
def frameSent (i : Instr) (s : State) : List Byte :=
  match i with
  | .xfer | .xfer32 => frameBytes s.opa
  | .xfer16 | .sendd | .sendu => [0x00#8, 0x00#8, s.opa.extractLsb' 8 8, s.opa.extractLsb' 0 8]
  | .nop | .crcNew | .crcUpdate | .crcSum16 | .ciphNew | .ciphEnc | .romBuild | .delay | .reservedD | .reservedE
  | .upload
  | .wPoll | .wPr1 | .wHdr _ | .wHdrend | .wPr2 | .wPal | .wHs _ | .wLen _ | .wData _ | .wCrcreq | .wCrcgo
  | .wCrc _ => encode i

/-- What 10_state.md R54 and R20 let an instruction write, column by column. -/
inductive Column where
  | crc | cipher | seed | hsb | fcb | stores | link | res
  deriving DecidableEq, Repr

/-- The columns an instruction may write (R20, R54): of UPLOAD the part its own step does, of its phases the wire words
(the entry actions of R230, R234 and R237 stand in the transition before their phase, R245). -/
def mayWrite : Instr → List Column
  | .nop | .delay | .reservedD | .reservedE => []
  | .crcNew | .crcUpdate => [.crc]
  | .crcSum16 => [.res]
  | .ciphNew => [.cipher]
  | .ciphEnc => [.cipher, .res]
  | .romBuild | .upload => [.crc, .stores]
  | .xfer | .xfer16 | .sendd | .sendu => [.link, .res]
  | .xfer32 => [.link]
  | .wPoll | .wPr1 | .wHdr _ | .wHdrend | .wPr2 | .wHs _ | .wCrcreq | .wCrc _ => [.link]
  | .wPal => [.link, .seed, .hsb]
  | .wLen _ => [.link, .fcb, .cipher]
  | .wData _ => [.link, .cipher]
  | .wCrcgo => [.link, .crc]

/-- A column holds the same after as before. -/
def Column.unchanged (c : Column) (s t : State) : Prop :=
  match c with
  | .crc => t.crc = s.crc
  | .cipher => t.lcg = s.lcg ∧ t.pos = s.pos
  | .seed => t.seed = s.seed
  | .hsb => t.hsb = s.hsb
  | .fcb => t.fcb = s.fcb
  | .stores => t.h = s.h ∧ t.p = s.p ∧ t.plen = s.plen ∧ t.nwords = s.nwords
  | .link => t.rx = s.rx ∧ txStream t = txStream s
  | .res => t.res = s.res

/-- The error kinds an instruction can raise (60_exceptions.md R275), by their codes (R270). -/
def mayRaise : Instr → List Nat
  | .nop | .crcNew | .crcUpdate | .crcSum16 | .ciphNew | .ciphEnc | .delay | .reservedD | .reservedE => []
  | .romBuild | .upload => [1]
  | .xfer | .xfer16 | .xfer32 | .sendu | .wPoll | .wPal | .wData _ | .wCrcreq => [2, 4]
  | .sendd | .wPr1 | .wHdr _ | .wHdrend | .wPr2 | .wHs _ | .wLen _ | .wCrcgo | .wCrc _ => [2, 3, 4]

/-- CIPH.ENC issued once for each word, the word put in `OPA` before (41_cipher.md R154): the state after and the words
returned; none where a command does not complete. -/
def cipherCalls : State → List Word → Option (State × List Word)
  | s, [] => some (s, [])
  | s, w :: ws =>
    match exec .ciphEnc { s with opa := w } with
    | .next t => (cipherCalls t ws).map fun x => (x.1, t.res :: x.2)
    | .fault _ | .refused _ => none

end Sys2Proof
end

