-- ==== Sys2Proof/Certificates/Slice0/Obligations.lean ====
section
/-! DEFINITION. The statements for the provers. In each, `base` is the state right after a completed read half: the four
bytes are gone from the receive stream, XHALF is 0, and the trace records the bytes taken. A next state written as a record
update of the state before says the frame too: every field it does not name is unchanged. -/

open Sys2Proof Sys2Proof.Machine

/-! ### Encodings -/

/-- Decode and encode agree on every instruction, with every operand at every value (R91, R92, R96, R98, R110, R111). -/
def Obligations.DecodeOfEncodeIsTheInstruction : Prop :=
  ∀ i : Instr, i.wellFormed = true → decode i.ctx (encode i) = .ok i

/-- Bytes that decode in a context are an instruction of that context; a frame is its only encoding, a command byte is
so up to the four bits that `CMD` does not have (R45, R104, R110). The last is the model's choice
(notes/assumptions/15.md). -/
def Obligations.DecodedBytesAreTheEncoding : Prop :=
  ∀ (c : Ctx) (bytes : List Byte) (i : Instr), decode c bytes = .ok i →
    i.ctx = c ∧ i.wellFormed = true ∧ (c ≠ .cmd → encode i = bytes) ∧
      (c = .cmd → ∃ b : Byte, bytes = [b] ∧ encode i = [b &&& 0x0F#8])

/-- A few words written out from the tables of R96 and R111. -/
def Obligations.SampleWordsDecode : Prop :=
  decode .cmd [0x00#8] = .ok .nop ∧ decode .cmd [0x0A#8] = .ok .sendd ∧ decode .cmd [0x0F#8] = .ok .upload ∧
  decode (.wire .poll) [0x00#8, 0x00#8, 0x62#8, 0x00#8] = .ok .wPoll ∧
  decode (.wire .hdrend) [0x00#8, 0x00#8, 0x62#8, 0x00#8] = .ok .wHdrend ∧
  decode (.wire .hdr) [0x00#8, 0x00#8, 0x62#8, 0x00#8] = .ok (.wHdr 0x6200#16) ∧
  decode (.wire .pal) [0x00#8, 0x00#8, 0x63#8, 0xD1#8] = .ok .wPal ∧
  decode (.wire .hs) [0x00#8, 0x00#8, 0x64#8, 0xBA#8] = .ok (.wHs 0xBA#8) ∧
  decode (.wire .data) [0x6F#8, 0xDF#8, 0x37#8, 0xCA#8] = .ok (.wData 0x6FDF37CA#32)

/-- When the bytes the next step fetches decode to an instruction, the step is that instruction's execution, with the
move taken off the schedule. That the host's and the sequencer's next event is a plain list in State is the model's
choice (notes/assumptions/1.md). -/
def Obligations.StepRunsTheDecodedInstruction : Prop :=
  ∀ (s : State) (c : Ctx) (bytes : List Byte) (i : Instr), fetchBytes s = some (c, bytes) → decode c bytes = .ok i →
    step s = exec i { s with inputs := s.inputs.tail }

/-- What the next step fetches. A write of v to CMD while the block is not busy fetches the opcode and runs the command
of v[3:0] (R110, R111, R204); that the value's upper bits are dropped is the model's choice (notes/assumptions/15.md). On
the block's turn the sequencer fetches the frame that R96 gives for its phase and sub-index. In PHASE UNIT the block
fetches the byte held in CMD: that CMD says which link command runs is the model's choice (notes/assumptions/10.md),
which R29 and R204 leave implicit. -/
def Obligations.SequencerFetchesTheFrameOfItsPhase : Prop :=
  ∀ s : State,
    (∀ v : Word, s.busy = false → s.nextMove = .hostWrite .cmd v →
      fetchBytes s = some (.cmd, [v.setWidth 8]) ∧
        ∀ i : Instr, i.opcode? = some (v.setWidth 4) → step s = exec i { s with inputs := s.inputs.tail }) ∧
    (s.nextMove = .turn →
      (s.phase = .discover ∨ s.phase = .stabilize →
        fetchBytes s = some (.wire .poll, [0x00#8, 0x00#8, 0x62#8, 0x00#8])) ∧
      (s.phase = .pr1 → fetchBytes s = some (.wire .pr1, [0x00#8, 0x00#8, 0x61#8, 0x02#8])) ∧
      (s.phase = .headers → ∀ hi : s.hidx.toNat < 96,
        fetchBytes s = some (.wire .hdr,
          [0x00#8, 0x00#8, s.h[s.hidx.toNat].extractLsb' 8 8, s.h[s.hidx.toNat].extractLsb' 0 8])) ∧
      (s.phase = .headers → s.hidx = 96#7 →
        fetchBytes s = some (.wire .hdrend, [0x00#8, 0x00#8, 0x62#8, 0x00#8])) ∧
      (s.phase = .pr2 → fetchBytes s = some (.wire .pr2, [0x00#8, 0x00#8, 0x62#8, 0x02#8])) ∧
      (s.phase = .palette → fetchBytes s = some (.wire .pal, [0x00#8, 0x00#8, 0x63#8, 0xD1#8])) ∧
      (s.phase = .handshake → fetchBytes s = some (.wire .hs, [0x00#8, 0x00#8, 0x64#8, s.hsb])) ∧
      (s.phase = .length →
        fetchBytes s = some (.wire .len,
          [0x00#8, 0x00#8, (s.nwords - 52#16).extractLsb' 8 8, (s.nwords - 52#16).extractLsb' 0 8])) ∧
      (s.phase = .main → s.xhalf = false → s.pidx.toNat < s.nwords.toNat →
        ∀ src : Word, s.p[s.pidx.toNat]? = some src →
          fetchBytes s = some (.wire .data,
            frameBytes (src ^^^ (0x6F646573#32 * s.lcg + 1#32) ^^^ s.pos ^^^ 0x43202F2F#32))) ∧
      (s.phase = .prepCrc → s.sub = false →
        fetchBytes s = some (.wire .crcreq, [0x00#8, 0x00#8, 0x00#8, 0x65#8])) ∧
      (s.phase = .prepCrc → s.sub = true →
        fetchBytes s = some (.wire .crcgo, [0x00#8, 0x00#8, 0x00#8, 0x66#8])) ∧
      (s.phase = .sendCrc →
        fetchBytes s = some (.wire .crc, [0x00#8, 0x00#8, s.crc.extractLsb' 8 8, s.crc.extractLsb' 0 8])) ∧
      (s.phase = .unit → fetchBytes s = some (.cmd, [s.cmd.setWidth 8])))

/-! ### Unit commands -/

/-- NOP is accepted while the block is not busy and changes nothing else: REFUSED and the error record are cleared, PHASE
becomes IDLE, and CMD holds the opcode (R203, R204; CMD: notes/assumptions/10.md). -/
def Obligations.NopOnlyAcceptsTheCommand : Prop :=
  ∀ s : State, s.busy = false →
    exec .nop s = .next { s with refused := false, err := ErrRecord.none, cmd := 0x0#4, phase := .idle }

/-- CRC.NEW loads 0xC387, CRC.UPDATE XORs the byte in and shifts right eight times with 0xC37B, CRC.SUM16 copies the
register to RES (R131, R132, R134). That CMD keeps the opcode is the model's choice (notes/assumptions/10.md). -/
def Obligations.CrcCommandsCompute : Prop :=
  ∀ s : State, s.busy = false →
    exec .crcNew s = .next
      { s with refused := false, err := ErrRecord.none, cmd := 0x1#4, phase := .idle, crc := 0xC387#16 } ∧
    exec .crcUpdate s = .next
      { s with
        refused := false, err := ErrRecord.none, cmd := 0x2#4, phase := .idle
        crc := (fun c : Half => if c.getLsbD 0 = true then (c >>> 1) ^^^ 0xC37B#16 else c >>> 1)^[8]
          (s.crc ^^^ (s.opa.extractLsb' 0 8).setWidth 16) } ∧
    exec .crcSum16 s = .next
      { s with refused := false, err := ErrRecord.none, cmd := 0x3#4, phase := .idle, res := s.crc.setWidth 32 }

/-- CIPH.NEW loads LCG and POS, CIPH.ENC advances LCG before and POS after the mask (R151, R152, R153). That CMD keeps
the opcode is the model's choice (notes/assumptions/10.md). -/
def Obligations.CipherCommandsCompute : Prop :=
  ∀ s : State, s.busy = false →
    exec .ciphNew s = .next
      { s with
        refused := false, err := ErrRecord.none, cmd := 0x4#4, phase := .idle, lcg := s.opa, pos := 0xFDFFFF40#32 } ∧
    exec .ciphEnc s = .next
      { s with
        refused := false, err := ErrRecord.none, cmd := 0x5#4, phase := .idle
        lcg := 0x6F646573#32 * s.lcg + 1#32
        res := s.opa ^^^ (0x6F646573#32 * s.lcg + 1#32) ^^^ s.pos ^^^ 0x43202F2F#32
        pos := s.pos - 4#32 }

/-- The keystream after CIPH.NEW: word number k is XORed with the generator applied k times, the position after k - 1
words and the key, whatever the words; after N words POS is 0xFDFFFF40 - 4N (R154, R155). -/
def Obligations.CipherKeystreamLaw : Prop :=
  ∀ (s : State) (ws : List Word), s.busy = false →
    ∃ (t u : State) (outs : List Word), exec .ciphNew s = .next t ∧ cipherCalls t ws = some (u, outs) ∧
      u.pos = 0xFDFFFF40#32 - BitVec.ofNat 32 (4 * ws.length) ∧ u.lcg = lcgAfter ws.length s.opa ∧
      outs.length = ws.length ∧
      ∀ (k : Nat) (w : Word), ws[k]? = some w →
        outs[k]? = some (w ^^^ (lcgAfter (k + 1) s.opa ^^^ (0xFDFFFF40#32 - BitVec.ofNat 32 (4 * k)) ^^^ 0x43202F2F#32))

/-- The table form of CRC.UPDATE (R135 (a)). -/
def Obligations.CrcTableFormAgrees : Prop :=
  ∀ (c : Half) (b : Byte),
    crcByte c b = (c >>> 8) ^^^ crcByte 0#16 ((c ^^^ b.setWidth 16).setWidth 8)

/-- The most-significant-bit-first form of CRC.UPDATE on the bit-reversed register, with the polynomial 0xDEC3
(R135 (b), R130). -/
def Obligations.CrcMsbFirstFormAgrees : Prop :=
  ∀ (c : Half) (b : Byte),
    (crcByte c b).reverse =
      (fun x : Half => if x.getLsbD 15 = true then (x <<< 1) ^^^ 0xDEC3#16 else x <<< 1)^[8]
        (c.reverse ^^^ (b.reverse.setWidth 16 <<< 8))

/-- The bit-serial form of CRC.UPDATE (R135 (c)): the bits of the byte, least significant first. -/
def Obligations.CrcBitSerialFormAgrees : Prop :=
  ∀ (c : Half) (b : Byte),
    crcByte c b =
      (List.range 8).foldl
        (fun (x : Half) (k : Nat) => if (x.getLsbD 0 ^^ b.getLsbD k) = true then (x >>> 1) ^^^ 0xC37B#16 else x >>> 1) c

/-! ### The ROM container -/

/-- ROM.BUILD of an accepted size (R170, R171, R173, R174, R175, R177): the padded length, the word count, the two
little-endian views of the image padded with zeros, the CRC of the payload bytes in ascending order; nothing else.
That CMD keeps the opcode is the model's choice (notes/assumptions/10.md). -/
def Obligations.RomBuildSplitsTheImage : Prop :=
  ∀ s : State, s.busy = false → 433 ≤ s.len.toNat → s.len.toNat ≤ 262144 →
    let padded : Nat → Nat := fun k => if k < s.len.toNat then (Memory.read s.img k).toNat else 0
    ∃ t : State, exec .romBuild s = .next t ∧
      t = { s with
        refused := false, err := ErrRecord.none, cmd := 0x6#4, phase := .idle
        plen := t.plen, h := t.h, nwords := t.nwords, p := t.p, crc := t.crc } ∧
      t.plen.toNat = (s.len.toNat + 15) / 16 * 16 ∧
      4 * t.nwords.toNat = t.plen.toNat - 0xC0 ∧ t.p.length = t.nwords.toNat ∧
      (∀ (i : Nat) (hi : i < 96), (t.h[i]).toNat = padded (2 * i) + 256 * padded (2 * i + 1)) ∧
      (∀ (j : Nat) (w : Word), t.p[j]? = some w →
        w.toNat = padded (0xC0 + 4 * j) + 2 ^ 8 * padded (0xC0 + 4 * j + 1) + 2 ^ 16 * padded (0xC0 + 4 * j + 2)
          + 2 ^ 24 * padded (0xC0 + 4 * j + 3)) ∧
      t.crc = ((List.range (t.plen.toNat - 0xC0)).map fun k => BitVec.ofNat 8 (padded (0xC0 + k))).foldl crcByte
        0xC387#16

/-- UPLOAD of an accepted size performs ROM.BUILD and starts phase 1 with its flags, counters and indices at 0 (R220,
R221). That CMD keeps the opcode is the model's choice (notes/assumptions/10.md). -/
def Obligations.UploadBuildsAndStartsPhaseOne : Prop :=
  ∀ s : State, s.busy = false → 433 ≤ s.len.toNat → s.len.toNat ≤ 262144 →
    ∃ t : State, exec .romBuild s = .next t ∧
      exec .upload s = .next
        { t with
          cmd := 0xF#4, rms := false, stab := 0#4, hidx := 0#7, pidx := 0#16, prog := 0#16, sub := false
          wait := false, xhalf := false, phase := .discover }

/-- An image whose padded length is below 448 or above 262144 raises SizeOutOfRange, in ROM.BUILD and in UPLOAD,
before anything is written (R171, R172, R176, R177, R221, R271, R280). That CMD keeps the opcode and that ERRPHASE is
0 after any earlier PHASE are notes/assumptions/10.md and 11.md. -/
def Obligations.WrongSizeIsRejectedUntouched : Prop :=
  ∀ s : State, s.busy = false → s.len.toNat ≤ 432 ∨ 262145 ≤ s.len.toNat →
    let e : ErrRecord :=
      { ErrRecord.none with kind := 1#3, sub := if s.len.toNat ≤ 432 then 1#2 else 2#2, phase := 0#4 }
    let t : BitVec 4 → State := fun op =>
      { s with
        refused := false, cmd := op, err := e, xhalf := false, wait := false, phase := .error
        trace := s.trace ++ [.error e] }
    exec .romBuild s = .next (t 0x6#4) ∧ exec .upload s = .next (t 0xF#4)

/-- The payload words ROM.BUILD leaves, each least significant byte first, are the bytes of the padded payload region in
ascending order, and the CRC it leaves is the CRC of those bytes (R76). -/
def Obligations.BuiltCrcIsThatOfTheStoredWords : Prop :=
  ∀ s t : State, s.busy = false → exec .romBuild s = .next t → t.phase = .idle →
    payloadBytes t.p =
        (List.range (t.plen.toNat - 0xC0)).map
          (fun k => if 0xC0 + k < s.len.toNat then Memory.read s.img (0xC0 + k) else 0#8) ∧
      t.crc = crcBytes 0xC387#16 (payloadBytes t.p)

/-- Only the padded image matters (R62): two images with the same padded length and the same padded bytes give the same
stores and the same CRC. -/
def Obligations.OnlyThePaddedImageMatters : Prop :=
  ∀ s s' t t' : State, s.busy = false → s'.busy = false →
    (s.len.toNat + 15) / 16 = (s'.len.toNat + 15) / 16 →
    (∀ k : Nat, k < (s.len.toNat + 15) / 16 * 16 →
      (if k < s.len.toNat then Memory.read s.img k else 0#8) =
        (if k < s'.len.toNat then Memory.read s'.img k else 0#8)) →
    exec .romBuild s = .next t → exec .romBuild s' = .next t' → t.phase = .idle →
    t'.phase = .idle ∧ t'.plen = t.plen ∧ t'.nwords = t.nwords ∧ t'.h = t.h ∧ t'.p = t.p ∧ t'.crc = t.crc

/-! ### Link commands -/

/-- The six commands that use the link or the timer are accepted into PHASE UNIT (R204). That CMD keeps the opcode is
the model's choice (notes/assumptions/10.md). -/
def Obligations.LinkCommandsEnterUnit : Prop :=
  ∀ s : State, s.busy = false →
    let t : BitVec 4 → State := fun op =>
      { s with refused := false, err := ErrRecord.none, cmd := op, phase := .unit }
    exec .xfer s = .next (t 0x7#4) ∧ exec .xfer16 s = .next (t 0x8#4) ∧ exec .xfer32 s = .next (t 0x9#4) ∧
      exec .sendd s = .next (t 0xA#4) ∧ exec .sendu s = .next (t 0xB#4) ∧ exec .delay s = .next (t 0xC#4)

/-- The write half of a unit command puts its four bytes on the link, most significant first, and sets XHALF (R91, R92,
R190 to R194): all of OPA for XFER and XFER32, OPA[15:0] behind two zero bytes for the others. -/
def Obligations.UnitWriteHalfSendsTheFrame : Prop :=
  ∀ s : State, s.phase = .unit → s.xhalf = false → s.wait = false → s.txFail = false →
    let sent : List Byte → State := fun bytes => { s with xhalf := true, trace := s.trace ++ [.wrote bytes] }
    let word := [s.opa.extractLsb' 24 8, s.opa.extractLsb' 16 8, s.opa.extractLsb' 8 8, s.opa.extractLsb' 0 8]
    let half := [0x00#8, 0x00#8, s.opa.extractLsb' 8 8, s.opa.extractLsb' 0 8]
    (s.cmd = 0x7#4 → exec .xfer s = .next (sent word)) ∧ (s.cmd = 0x8#4 → exec .xfer16 s = .next (sent half)) ∧
      (s.cmd = 0x9#4 → exec .xfer32 s = .next (sent word)) ∧ (s.cmd = 0xA#4 → exec .sendd s = .next (sent half)) ∧
      (s.cmd = 0xB#4 → exec .sendu s = .next (sent half))

/-- The read half of XFER, XFER16 and XFER32 takes four bytes; the first two become RES (not for XFER32), the other two
are dropped, and the command ends in IDLE (R93, R190, R191, R192). -/
def Obligations.XferReturnsTheHighHalf : Prop :=
  ∀ (s : State) (c0 c1 c2 c3 : Byte) (rest : List RxItem), s.phase = .unit → s.xhalf = true →
    s.rx = .byte c0 :: .byte c1 :: .byte c2 :: .byte c3 :: rest →
    let base : State :=
      { s with rx := rest, xhalf := false, trace := s.trace ++ [.took [c0, c1, c2, c3]] }
    (s.cmd = 0x7#4 → exec .xfer s = .next { base with res := (c0 ++ c1).setWidth 32, phase := .idle }) ∧
      (s.cmd = 0x8#4 → exec .xfer16 s = .next { base with res := (c0 ++ c1).setWidth 32, phase := .idle }) ∧
      (s.cmd = 0x9#4 → exec .xfer32 s = .next { base with phase := .idle })

/-- SENDD ends with the response in RES if it matches under the mask, and raises UnexpectedResponse with the word sent,
the word expected, the mask and the word received if it does not (R95, R193, R273, R280). -/
def Obligations.SenddDemandsTheResponse : Prop :=
  ∀ (s : State) (c0 c1 c2 c3 : Byte) (rest : List RxItem), s.phase = .unit → s.cmd = 0xA#4 → s.xhalf = true →
    s.rx = .byte c0 :: .byte c1 :: .byte c2 :: .byte c3 :: rest →
    let r : Half := c0 ++ c1
    let base : State :=
      { s with rx := rest, xhalf := false, trace := s.trace ++ [.took [c0, c1, c2, c3]] }
    let e : ErrRecord :=
      { kind := 3#3, sub := 0#2, phase := 15#4, sent := s.opa.extractLsb' 0 16, exp := s.opb, mask := s.opc, recv := r }
    exec .sendd s = .next
      (if r &&& s.opc = s.opb &&& s.opc then { base with res := r.setWidth 32, phase := .idle }
       else { base with err := e, wait := false, phase := .error, trace := base.trace ++ [.error e] })

/-- SENDU ends with the response in RES if it matches; otherwise it tries again, at once with a zero delay and after the
delay of OPD microseconds with another (R95, R194). -/
def Obligations.SenduRepeatsUntilTheResponse : Prop :=
  ∀ s : State, s.phase = .unit → s.cmd = 0xB#4 →
    (s.wait = true → exec .sendu s = .next { s with wait := false, trace := s.trace ++ [.delay s.opd] }) ∧
    ∀ (c0 c1 c2 c3 : Byte) (rest : List RxItem), s.wait = false → s.xhalf = true →
      s.rx = .byte c0 :: .byte c1 :: .byte c2 :: .byte c3 :: rest →
      let r : Half := c0 ++ c1
      let base : State :=
        { s with rx := rest, xhalf := false, trace := s.trace ++ [.took [c0, c1, c2, c3]] }
      exec .sendu s = .next
        (if r &&& s.opc = s.opb &&& s.opc then { base with res := r.setWidth 32, phase := .idle }
         else { base with wait := decide (s.opd ≠ 0#32) })

/-- DELAY is one step, labelled with OPD microseconds, and the command ends in IDLE (R200, R204). That WAIT is not
seen at 1 is notes/assumptions/12.md. -/
def Obligations.DelayIsOneLabelledStep : Prop :=
  ∀ s : State, s.phase = .unit → s.cmd = 0xC#4 →
    exec .delay s = .next { s with wait := false, trace := s.trace ++ [.delay s.opd], phase := .idle }

/-- The reserved opcodes change no state except REFUSED, which is set (R112). -/
def Obligations.ReservedOpcodesAreRefused : Prop :=
  ∀ s : State, exec .reservedD s = .next { s with refused := true } ∧ exec .reservedE s = .next { s with refused := true }

/-- A write to CMD while BUSY is 1 is refused whatever the opcode: only REFUSED changes; a command that is accepted
clears REFUSED (R113). -/
def Obligations.CommandWhileBusyIsRefused : Prop :=
  (∀ (s : State) (v : Word) (l : List Input), s.busy = true → s.inputs = .hostWrite .cmd v :: l →
    step s = .next { s with inputs := l, refused := true }) ∧
  (∀ (i : Instr) (s t : State), s.busy = false → i.opcode?.isSome = true → i ≠ .reservedD → i ≠ .reservedE →
    exec i s = .next t → t.refused = false)

/-! ### The sequencer -/

/-- The write half of every wire word puts the frame of R96 on the link and sets XHALF; in phase 10 the cipher has then
advanced once (R91, R92, R190, R234). -/
def Obligations.WireWordsAreSentAsTheirFrames : Prop :=
  ∀ (i : Instr) (s : State), inPlace i s = true → s.phase ≠ .unit → s.xhalf = false → s.wait = false →
    s.txFail = false →
    exec i s = .next
      { s with
        xhalf := true
        trace := s.trace ++ [.wrote [i.word.extractLsb' 24 8, i.word.extractLsb' 16 8, i.word.extractLsb' 8 8,
          i.word.extractLsb' 0 8]]
        lcg := if s.phase = .main then 0x6F646573#32 * s.lcg + 1#32 else s.lcg
        pos := if s.phase = .main then s.pos - 4#32 else s.pos }

/-- Phase 1 (R222): 0x7202, or 0x0000 with RMS set, ends it; 0x0000 and 0xFFFF set RMS; every response that does not end
it is followed by the delay. -/
def Obligations.DiscoverFollowsTheResponse : Prop :=
  ∀ s : State, s.phase = .discover →
    (s.wait = true → exec .wPoll s = .next { s with wait := false, trace := s.trace ++ [.delay 62500#32] }) ∧
    ∀ (c0 c1 c2 c3 : Byte) (rest : List RxItem), s.wait = false → s.xhalf = true →
      s.rx = .byte c0 :: .byte c1 :: .byte c2 :: .byte c3 :: rest →
      let r : Half := c0 ++ c1
      let base : State :=
        { s with rx := rest, xhalf := false, trace := s.trace ++ [.took [c0, c1, c2, c3]] }
      exec .wPoll s = .next
        (if r = 0x7202#16 ∨ (r = 0x0000#16 ∧ s.rms = true) then { base with stab := 0#4, phase := .stabilize }
         else { base with rms := s.rms || decide (r = 0x0000#16 ∨ r = 0xFFFF#16), wait := true })

/-- Phase 2 (R223): the fifteenth 0x7202 in a row ends it; another response resets the counter and is followed by the
delay. -/
def Obligations.StabilizeCountsFifteenInARow : Prop :=
  ∀ s : State, s.phase = .stabilize →
    (s.wait = true → exec .wPoll s = .next { s with wait := false, trace := s.trace ++ [.delay 62500#32] }) ∧
    ∀ (c0 c1 c2 c3 : Byte) (rest : List RxItem), s.wait = false → s.xhalf = true → s.stab.toNat < 15 →
      s.rx = .byte c0 :: .byte c1 :: .byte c2 :: .byte c3 :: rest →
      let base : State :=
        { s with rx := rest, xhalf := false, trace := s.trace ++ [.took [c0, c1, c2, c3]] }
      exec .wPoll s = .next
        (if c0 ++ c1 = 0x7202#16 then
          { base with stab := BitVec.ofNat 4 (s.stab.toNat + 1), phase := if s.stab = 14#4 then .pr1 else .stabilize }
         else { base with stab := 0#4, wait := true })

/-- The single-shot phases that record nothing: phase 3 enters phase 4 with HIDX at 0 on 0x7202, the terminator enters
phase 5 on 0x0002, phase 5 enters phase 6 on 0x7202, phase 7 enters phase 8 on 0x73xx (R224, R226, R227, R231). -/
def Obligations.SingleShotPhasesAdvance : Prop :=
  ∀ (s : State) (b : Byte) (c0 c1 c2 c3 : Byte) (rest : List RxItem), s.xhalf = true →
    s.rx = .byte c0 :: .byte c1 :: .byte c2 :: .byte c3 :: rest →
    let base : State :=
      { s with rx := rest, xhalf := false, trace := s.trace ++ [.took [c0, c1, c2, c3]] }
    (s.phase = .pr1 → c0 ++ c1 = 0x7202#16 → exec .wPr1 s = .next { base with hidx := 0#7, phase := .headers }) ∧
    (s.phase = .headers → s.hidx = 96#7 → c0 ++ c1 = 0x0002#16 → exec .wHdrend s = .next { base with phase := .pr2 }) ∧
    (s.phase = .pr2 → c0 ++ c1 = 0x7202#16 → exec .wPr2 s = .next { base with phase := .palette }) ∧
    (s.phase = .handshake → c0 = 0x73#8 → exec (.wHs b) s = .next { base with phase := .fixedDelay })

/-- Phase 4 (R225): header word i is answered by high byte 96 - i and low byte 0x02; then HIDX advances. -/
def Obligations.HeaderWordsCountDown : Prop :=
  ∀ (s : State) (h : Half) (c0 c1 c2 c3 : Byte) (rest : List RxItem), s.phase = .headers → s.xhalf = true →
    s.hidx.toNat < 96 → s.rx = .byte c0 :: .byte c1 :: .byte c2 :: .byte c3 :: rest →
    c0.toNat = 96 - s.hidx.toNat → c1 = 0x02#8 →
    exec (.wHdr h) s = .next
      { s with
        rx := rest, xhalf := false, trace := s.trace ++ [.took [c0, c1, c2, c3]]
        hidx := BitVec.ofNat 7 (s.hidx.toNat + 1) }

/-- Phase 6 (R228, R229, R230): a response 0x73ss records the seed ss and the handshake byte ss + 0xFF + 0xFF + 0x11
modulo 256; any other response is followed by another attempt at once. The handshake byte is computed in the
transition before phase 7 (R245, notes/assumptions/13.md). -/
def Obligations.PaletteRecordsTheSeed : Prop :=
  ∀ (s : State) (c0 c1 c2 c3 : Byte) (rest : List RxItem), s.phase = .palette → s.wait = false → s.xhalf = true →
    s.rx = .byte c0 :: .byte c1 :: .byte c2 :: .byte c3 :: rest →
    let base : State :=
      { s with rx := rest, xhalf := false, trace := s.trace ++ [.took [c0, c1, c2, c3]] }
    exec .wPal s = .next
      (if c0 = 0x73#8 then
        { base with
          seed := c1, hsb := BitVec.ofNat 8 (c1.toNat + 0xFF + 0xFF + 0x11), phase := .handshake }
       else base)

/-- Phase 8 (R232): on the block's turn the delay of 62500 microseconds, once and unconditionally, then phase 9; no link
byte is written or read. -/
def Obligations.FixedDelayComesBeforeTheLength : Prop :=
  ∀ s : State, s.phase = .fixedDelay → s.nextMove = .turn →
    step s = .next
      { s with inputs := s.inputs.tail, wait := false, trace := s.trace ++ [.delay 62500#32], phase := .length }

/-- Phase 9 (R233, R101): a response 0x73cc records the final CRC byte cc and starts the cipher with the seed word.
The cipher is started in the transition before phase 10 (notes/assumptions/13.md). -/
def Obligations.LengthRecordsTheFinalByteAndStartsTheCipher : Prop :=
  ∀ (s : State) (n : Half) (c0 c1 c2 c3 : Byte) (rest : List RxItem), s.phase = .length → s.xhalf = true →
    s.rx = .byte c0 :: .byte c1 :: .byte c2 :: .byte c3 :: rest → c0 = 0x73#8 →
    exec (.wLen n) s = .next
      { s with
        rx := rest, xhalf := false, trace := s.trace ++ [.took [c0, c1, c2, c3]]
        fcb := c1
        lcg := (0xFF#32 <<< 24) ||| (0xFF#32 <<< 16) ||| (s.seed.setWidth 32 <<< 8) ||| 0xD1#32
        pos := 0xFDFFFF40#32, pidx := 0#16, prog := 0#16, phase := .main }

/-- Phase 10 (R234): whatever the response, PIDX and PROG advance; after the last word SUB is 0 and phase 11 begins. -/
def Obligations.DataResponsesAreDiscarded : Prop :=
  ∀ (s : State) (d : Word) (c0 c1 c2 c3 : Byte) (rest : List RxItem), s.phase = .main → s.xhalf = true →
    s.pidx.toNat < s.nwords.toNat → s.rx = .byte c0 :: .byte c1 :: .byte c2 :: .byte c3 :: rest →
    let base : State :=
      { s with
        rx := rest, xhalf := false, trace := s.trace ++ [.took [c0, c1, c2, c3]]
        pidx := BitVec.ofNat 16 (s.pidx.toNat + 1), prog := BitVec.ofNat 16 (s.pidx.toNat + 1) }
    exec (.wData d) s = .next
      (if s.pidx.toNat + 1 = s.nwords.toNat then { base with sub := false, phase := .prepCrc } else base)

/-- Phase 11 (R235, R236, R237): the poll ends on a low byte 0x75, each further attempt comes after the delay; the
confirm's low byte 0x75 enters phase 12 with HSB, FCB, 0xFF, 0xFF fed to the CRC in that order. The seal is applied in
the transition before phase 12 (notes/assumptions/13.md). -/
def Obligations.PrepareCrcPollsConfirmsAndSeals : Prop :=
  ∀ s : State, s.phase = .prepCrc →
    (s.sub = false → s.wait = true →
      exec .wCrcreq s = .next { s with wait := false, trace := s.trace ++ [.delay 62500#32] }) ∧
    ∀ (c0 c1 c2 c3 : Byte) (rest : List RxItem), s.xhalf = true →
      s.rx = .byte c0 :: .byte c1 :: .byte c2 :: .byte c3 :: rest →
      let base : State :=
        { s with rx := rest, xhalf := false, trace := s.trace ++ [.took [c0, c1, c2, c3]] }
      (s.sub = false → s.wait = false →
        exec .wCrcreq s = .next (if c1 = 0x75#8 then { base with sub := true } else { base with wait := true })) ∧
      (s.sub = true → c1 = 0x75#8 →
        exec .wCrcgo s = .next
          { base with
            crc := crcByte (crcByte (crcByte (crcByte s.crc s.hsb) s.fcb) 0xFF#8) 0xFF#8, phase := .sendCrc })

/-- Phase 12 (R238, R239): the upload ends with success exactly on the echo of the CRC sent. -/
def Obligations.EchoOfTheCrcEndsTheUpload : Prop :=
  ∀ (s : State) (c : Half) (c0 c1 c2 c3 : Byte) (rest : List RxItem), s.phase = .sendCrc → s.xhalf = true →
    s.rx = .byte c0 :: .byte c1 :: .byte c2 :: .byte c3 :: rest →
    let base : State :=
      { s with rx := rest, xhalf := false, trace := s.trace ++ [.took [c0, c1, c2, c3]] }
    let e : ErrRecord :=
      { kind := 3#3, sub := 0#2, phase := 12#4, sent := c, exp := c, mask := 0xFFFF#16, recv := c0 ++ c1 }
    exec (.wCrc c) s = .next
      (if c0 ++ c1 = c then { base with phase := .done, trace := base.trace ++ [.done] }
       else { base with err := e, wait := false, phase := .error, trace := base.trace ++ [.error e] })

/-- The sites of R273 before phase 12: a demanded response that does not match raises UnexpectedResponse with the phase
and the four words of the table, and nothing else changes but WAIT, XHALF and PHASE (R106, R273, R280, R281). -/
def Obligations.UnexpectedResponseSites : Prop :=
  ∀ (s : State) (b : Byte) (w : Half) (c0 c1 c2 c3 : Byte) (rest : List RxItem), s.xhalf = true →
    s.rx = .byte c0 :: .byte c1 :: .byte c2 :: .byte c3 :: rest →
    let r : Half := c0 ++ c1
    let failed : BitVec 4 → Half → Half → Half → State := fun ph sent exp mask =>
      let e : ErrRecord :=
        { kind := 3#3, sub := 0#2, phase := ph, sent := sent, exp := exp, mask := mask, recv := r }
      { s with
        rx := rest, xhalf := false, wait := false, err := e, phase := .error
        trace := s.trace ++ [.took [c0, c1, c2, c3], .error e] }
    (s.phase = .pr1 → r ≠ 0x7202#16 → exec .wPr1 s = .next (failed 3#4 0x6102#16 0x7202#16 0xFFFF#16)) ∧
    (s.phase = .headers → s.hidx.toNat < 96 → r ≠ BitVec.ofNat 16 ((96 - s.hidx.toNat) * 256 + 2) →
      exec (.wHdr w) s = .next (failed 4#4 w (BitVec.ofNat 16 ((96 - s.hidx.toNat) * 256 + 2)) 0xFFFF#16)) ∧
    (s.phase = .headers → s.hidx = 96#7 → r ≠ 0x0002#16 →
      exec .wHdrend s = .next (failed 4#4 0x6200#16 0x0002#16 0xFFFF#16)) ∧
    (s.phase = .pr2 → r ≠ 0x7202#16 → exec .wPr2 s = .next (failed 5#4 0x6202#16 0x7202#16 0xFFFF#16)) ∧
    (s.phase = .handshake → c0 ≠ 0x73#8 →
      exec (.wHs b) s = .next (failed 7#4 (0x64#8 ++ b) 0x7300#16 0xFF00#16)) ∧
    (s.phase = .length → c0 ≠ 0x73#8 → exec (.wLen w) s = .next (failed 9#4 w 0x7300#16 0xFF00#16)) ∧
    (s.phase = .prepCrc → s.sub = true → c1 ≠ 0x75#8 →
      exec .wCrcgo s = .next (failed 11#4 0x0066#16 0x0075#16 0x00FF#16))

/-! ### Errors and waiting -/

/-- What the transport's failures do in every instruction that transfers (R70, R71, R190, R201, R272, R274, R280): the
record names the kind, the sub-code and the phase with zero words; of a failed write 0 to 4 bytes went out, of a failed
or closed read 0 to 3 bytes are gone; a closed stream stays closed (the last: notes/assumptions/20.md). -/
def Obligations.TransportFailuresAbort : Prop :=
  ∀ (i : Instr) (s : State), inPlace i s = true → s.wait = false →
    let record : BitVec 3 → BitVec 2 → ErrRecord := fun kind sub =>
      { ErrRecord.none with kind := kind, sub := sub, phase := s.phase.code }
    (s.xhalf = false → s.txFail = true →
      ∃ (t : State) (n : Nat), exec i s = .next t ∧ n ≤ 4 ∧ t.phase = .error ∧ t.err = record 2#3 1#2 ∧
        t.xhalf = false ∧ t.wait = false ∧ t.rx = s.rx ∧
        t.trace = s.trace ++ [.wrote ((frameSent i s).take n), .error t.err]) ∧
    (∀ (got : List Byte) (rest : List RxItem), s.xhalf = true → got.length < 4 →
      s.rx = got.map .byte ++ .failure :: rest →
      ∃ (t : State) (n : Nat), exec i s = .next t ∧ n ≤ 3 ∧ t.phase = .error ∧ t.err = record 2#3 2#2 ∧
        t.xhalf = false ∧ t.wait = false ∧ t.rx = (got.drop n).map .byte ++ rest ∧
        t.trace = s.trace ++ [.took (got.take n), .error t.err]) ∧
    (∀ (got : List Byte) (rest : List RxItem), s.xhalf = true → got.length < 4 →
      s.rx = got.map .byte ++ .closed :: rest →
      ∃ (t : State) (n : Nat), exec i s = .next t ∧ n ≤ 3 ∧ t.phase = .error ∧ t.err = record 4#3 0#2 ∧
        t.xhalf = false ∧ t.wait = false ∧ t.rx = (got.drop n).map .byte ++ .closed :: rest ∧
        t.trace = s.trace ++ [.took (got.take n), .error t.err])

/-- A read half that has fewer than four bytes on an open stream waits: nothing changes, no error is raised (R71,
R190, R202, R293). That waiting is a step that changes nothing is notes/assumptions/21.md. -/
def Obligations.IncompleteReadWaits : Prop :=
  ∀ (i : Instr) (s : State) (got : List Byte), inPlace i s = true → s.wait = false → s.xhalf = true → got.length < 4 →
    s.rx = got.map .byte → exec i s = .next s

/-- Errors are precise (R280, R281): an instruction that raises one while the block is busy leaves every register, both
stores and the image as they were; only the cipher has advanced, once, if the write of a data word failed. -/
def Obligations.ErrorsArePrecise : Prop :=
  ∀ (i : Instr) (s t : State), s.busy = true → exec i s = .next t → t.phase = .error →
    t.err.phase = s.phase.code ∧ t.xhalf = false ∧ t.wait = false ∧
      ∃ l : List Obs, t.trace = s.trace ++ l ++ [.error t.err] ∧
        t = { s with
          err := t.err, xhalf := false, wait := false, phase := .error, rx := t.rx, txFail := t.txFail
          trace := t.trace, draws := t.draws
          lcg := if s.phase = .main ∧ s.xhalf = false then 0x6F646573#32 * s.lcg + 1#32 else s.lcg
          pos := if s.phase = .main ∧ s.xhalf = false then s.pos - 4#32 else s.pos }

/-- Which errors each operation can raise (R275). -/
def Obligations.ErrorKindsByOperation : Prop :=
  ∀ (i : Instr) (s t : State), exec i s = .next t → s.phase ≠ .error → t.phase = .error →
    t.err.kind.toNat ∈ mayRaise i

/-- The frame of every instruction (R20, R54): a column it may not write is unchanged, and no instruction changes the
image, its length, the operand registers, the schedule or the host's last reading. The columns of the wire words
follow the folding of R245 (notes/assumptions/13.md). -/
def Obligations.InstructionsWriteOnlyTheirColumns : Prop :=
  ∀ (i : Instr) (s t : State), exec i s = .next t →
    (∀ c : Column, c ∉ mayWrite i → c.unchanged s t) ∧
      (∀ a : Nat, Memory.read t.img a = Memory.read s.img a) ∧ t.len = s.len ∧ t.opa = s.opa ∧ t.opb = s.opb ∧
      t.opc = s.opc ∧ t.opd = s.opd ∧ t.inputs = s.inputs ∧ t.hostData = s.hostData

/-! ### The whole machine -/

/-- PHASE never goes backward and never skips a phase (R30, R204, R220): unless the reset input acts, a phase 1 to 12 is
followed by itself, the next one or ERROR; PHASE UNIT by itself, IDLE or ERROR; IDLE, DONE and ERROR by themselves or,
through a command, by IDLE, phase 1, UNIT or ERROR. -/
def Obligations.PhasesAdvanceStrictlyInOrder : Prop :=
  ∀ s t : State, step s = .next t → (∀ w : Bool, s.nextMove ≠ .reset w) →
    (1 ≤ s.phase.code.toNat → s.phase.code.toNat ≤ 12 →
      t.phase = s.phase ∨ t.phase.code.toNat = s.phase.code.toNat + 1 ∨ t.phase = .error) ∧
    (s.phase = .unit → t.phase = .unit ∨ t.phase = .idle ∨ t.phase = .error) ∧
    (s.busy = false → t.phase = s.phase ∨
      ((∃ v : Word, s.nextMove = .hostWrite .cmd v) ∧
        (t.phase = .idle ∨ t.phase = .discover ∨ t.phase = .unit ∨ t.phase = .error)))

/-- The order on the link (R81): the trace only grows; a write happens with no transfer in flight and leaves one in
flight unless it fails; bytes are taken only in the read half of a transfer, which ends it; a delay runs with no transfer
in flight. -/
def Obligations.LinkEventsAreInOrder : Prop :=
  ∀ s t : State, ControlSound s → step s = .next t → (∀ w : Bool, s.nextMove ≠ .reset w) →
    ∃ l : List Obs, t.trace = s.trace ++ l ∧
      (∀ bs : List Byte, .wrote bs ∈ l →
        s.xhalf = false ∧ ((t.xhalf = true ∧ bs.length = 4 ∧ l = [.wrote bs]) ∨ (t.phase = .error ∧ bs.length ≤ 4))) ∧
      (∀ bs : List Byte, .took bs ∈ l →
        s.xhalf = true ∧ t.xhalf = false ∧ s.rx.take bs.length = bs.map .byte ∧ (bs.length = 4 ∨ t.phase = .error)) ∧
      (∀ us : Word, .delay us ∈ l → s.xhalf = false ∧ t.xhalf = false ∧ l = [.delay us])

/-- Every delay of the sequencer is 62500 microseconds, at the sites of R287: phases 1, 2 and 8 and the poll of
phase 11. -/
def Obligations.SequencerDelaysAre62500 : Prop :=
  ∀ (s t : State) (us : Word), ControlSound s → s.phase.inUpload = true → step s = .next t →
    t.trace = s.trace ++ [.delay us] →
    us = 62500#32 ∧
      (s.phase = .discover ∨ s.phase = .stabilize ∨ s.phase = .fixedDelay ∨ (s.phase = .prepCrc ∧ s.sub = false))

/-- No result of an upload depends on what an earlier upload or reset left behind (R52): two blocks with the same image
and length that accept UPLOAD on equal links make the same observable run, step for step, whatever their other registers
hold; if the size is accepted, with the same progress and CRC. While the upload runs the transport may deliver anything and
fail any write, in the same way for both. -/
def Obligations.UploadDependsOnlyOnImageAndLink : Prop :=
  ∀ (s t : State) (v : Word) (l : List Input) (k : Nat) (s' : State), s.busy = false → t.busy = false →
    v.setWidth 4 = 0xF#4 → s.inputs = .hostWrite .cmd v :: l → t.inputs = .hostWrite .cmd v :: l →
    (∀ m : Input, m ∈ l → m = .turn ∨ (∃ x : RxItem, m = .deliver x) ∨ m = .failNextWrite) →
    s.len = t.len → s.img = t.img → s.rx = t.rx → s.txFail = t.txFail → s.trace = t.trace → s.draws = t.draws →
    Host.Core.run core (k + 1) s = .next s' →
    ∃ t' : State, Host.Core.run core (k + 1) t = .next t' ∧ t'.trace = s'.trace ∧ t'.phase = s'.phase ∧
      t'.err = s'.err ∧ t'.rx = s'.rx ∧
      (433 ≤ s.len.toNat → s.len.toNat ≤ 262144 → t'.prog = s'.prog ∧ t'.crc = s'.crc)

/-- The phases read H and P, never the image (R84): a wire word does the same whatever IMG and LEN hold. -/
def Obligations.WireWordsNeverReadTheImage : Prop :=
  ∀ (i : Instr) (s t : State) (m : Memory) (n : Word), i.opcode? = none → exec i s = .next t →
    exec i { s with img := m, len := n } = .next { t with img := m, len := n }

/-! ### The host port and reset -/

/-- The host's register writes (R45, R300): the operand registers and LEN take what is written while the block is not
busy; a read-only register never changes; while the block is busy no write but one to CMD changes anything. Two things
here are the model's and no rule of the spec: a register takes the low bits it has (notes/assumptions/15.md), and a write to
the flags, indices and store entries of R281, to which R45 gives no number, is ignored (notes/assumptions/30.md). -/
def Obligations.HostWritesOwnedRegistersOnly : Prop :=
  ∀ (s : State) (r : HostReg) (v : Word) (l : List Input), s.inputs = .hostWrite r v :: l → r ≠ .cmd →
    step s = .next
      (if s.busy = true then { s with inputs := l }
       else if r = .opa then { s with inputs := l, opa := v }
       else if r = .opb then { s with inputs := l, opb := v.extractLsb' 0 16 }
       else if r = .opc then { s with inputs := l, opc := v.extractLsb' 0 16 }
       else if r = .opd then { s with inputs := l, opd := v }
       else if r = .len then { s with inputs := l, len := v }
       else { s with inputs := l })

/-- The host's image writes (R61, R300): while the block is not busy a byte below 262144 is stored and every other byte
keeps its value; while it is busy, or beyond that, nothing is stored. Two things here are the model's choice and no rule
of the spec. That a byte at or above LEN is stored too is notes/assumptions/16.md (R61 says that IMG[k] does not exist for
k at or above LEN). The canonical form that the statement assumes and concludes, and what a byte that the memory does not
list reads as, are notes/assumptions/4.md. -/
def Obligations.HostImageWritesStoreOneByte : Prop :=
  ∀ (s : State) (k : Nat) (b : Byte) (l : List Input), s.inputs = .hostImage k b :: l → Memory.wf s.img = true →
    ∃ t : State, step s = .next t ∧ t = { s with inputs := l, img := t.img } ∧ Memory.wf t.img = true ∧
      ∀ a : Nat, Memory.read t.img a =
        if s.busy = false ∧ k < 262144 ∧ a = k then b else Memory.read s.img a

/-- The host's register reads (R24, R39, R45, R300): STAT, PHASE, PROG, REFUSED and KEY at any time; the other
registers, and the flags, indices and store entries that R281 lets the host read for diagnosis, while the block is not
busy. That KEY reads as its constant while busy is notes/assumptions/8.md; the form of the diagnosis reads, and that they
answer after a command without an error too, is the model's choice (notes/assumptions/30.md). -/
def Obligations.HostReadsReturnTheRegister : Prop :=
  ∀ (s : State) (r : HostReg) (l : List Input), s.inputs = .hostRead r :: l →
    let reads : Word → Prop := fun v => step s = .next { s with inputs := l, hostData := v }
    (r = .stat → reads ((if s.busy = true then 1#32 else 0#32) ||| (if s.phase = .done then 2#32 else 0#32)
      ||| (if s.phase = .error then 4#32 else 0#32))) ∧
    (r = .phase → reads (s.phase.code.setWidth 32)) ∧ (r = .prog → reads (s.prog.setWidth 32)) ∧
    (r = .refused → reads (if s.refused = true then 1#32 else 0#32)) ∧ (r = .key → reads 0x43202F2F#32) ∧
    (s.busy = false →
      (r = .opa → reads s.opa) ∧ (r = .opb → reads (s.opb.setWidth 32)) ∧ (r = .opc → reads (s.opc.setWidth 32)) ∧
      (r = .opd → reads s.opd) ∧ (r = .res → reads s.res) ∧ (r = .len → reads s.len) ∧
      (r = .plen → reads (s.plen.setWidth 32)) ∧ (r = .nwords → reads (s.nwords.setWidth 32)) ∧
      (r = .errKind → reads (s.err.kind.setWidth 32)) ∧ (r = .errSub → reads (s.err.sub.setWidth 32)) ∧
      (r = .errPhase → reads (s.err.phase.setWidth 32)) ∧ (r = .errSent → reads (s.err.sent.setWidth 32)) ∧
      (r = .errExp → reads (s.err.exp.setWidth 32)) ∧ (r = .errMask → reads (s.err.mask.setWidth 32)) ∧
      (r = .errRecv → reads (s.err.recv.setWidth 32)) ∧ (r = .crc → reads (s.crc.setWidth 32)) ∧
      (r = .lcg → reads s.lcg) ∧ (r = .pos → reads s.pos) ∧ (r = .seed → reads (s.seed.setWidth 32)) ∧
      (r = .hsb → reads (s.hsb.setWidth 32)) ∧ (r = .fcb → reads (s.fcb.setWidth 32)) ∧
      (r = .rms → reads (if s.rms = true then 1#32 else 0#32)) ∧ (r = .stab → reads (s.stab.setWidth 32)) ∧
      (r = .hidx → reads (s.hidx.setWidth 32)) ∧ (r = .pidx → reads (s.pidx.setWidth 32)) ∧
      (∀ i : Fin 96, r = .h i → reads (s.h[i.val].setWidth 32)) ∧
      (∀ (j : Fin 65488) (w : Word), r = .p j → s.p[j.val]? = some w → reads w))

/-- The reset input (R310, R311, R53): from any state the flags, counters, status and error record are at their reset
values and PHASE is IDLE; the receive stream is not drained and no word is sent; a link write that was in progress has
put 0 to 4 bytes of its frame on the link. The reset that lands inside a link write is notes/assumptions/7.md. -/
def Obligations.ResetAbandonsTheCommandAndKeepsTheLink : Prop :=
  ∀ (s : State) (w : Bool) (l : List Input), s.inputs = .reset w :: l →
    ∃ t : State, step s = .next t ∧ t.phase = .idle ∧ t.stat = 0#3 ∧ t.err = ErrRecord.none ∧ t.refused = false ∧
      t.wait = false ∧ t.xhalf = false ∧ t.sub = false ∧ t.rms = false ∧ t.stab = 0#4 ∧ t.hidx = 0#7 ∧
      t.pidx = 0#16 ∧ t.prog = 0#16 ∧ t.rx = s.rx ∧ t.inputs = l ∧
      (w = false ∨ pendingWord s = none → t.trace = s.trace) ∧
      ∀ x : Word, w = true → pendingWord s = some x →
        ∃ n : Nat, n ≤ 4 ∧ t.trace = s.trace ++ [.wrote ((frameBytes x).take n)]

/-- What reset leaves where the spec gives a value (R53, R310), and that the block then takes no step of its own
(R314). That such a turn is a step that changes nothing, and that the schedule is empty at reset, are the model's choices
(notes/assumptions/26.md, 2.md). -/
def Obligations.ResetStateHoldsTheGivenValues : Prop :=
  State.reset.phase = .idle ∧ State.reset.stat = 0#3 ∧ State.reset.err = ErrRecord.none ∧
    State.reset.refused = false ∧ State.reset.wait = false ∧ State.reset.xhalf = false ∧ State.reset.sub = false ∧
    State.reset.rms = false ∧ State.reset.stab = 0#4 ∧ State.reset.hidx = 0#7 ∧ State.reset.pidx = 0#16 ∧
    State.reset.prog = 0#16 ∧ step State.reset = .next State.reset

/-- In IDLE, DONE and ERROR the block takes no step of its own (R283, R314): its turn changes nothing, which is the
model's form of it (notes/assumptions/26.md). -/
def Obligations.IdleBlockTakesNoStep : Prop :=
  ∀ s : State, s.busy = false → s.nextMove = .turn → step s = .next { s with inputs := s.inputs.tail }

/-- STAT (R39): bit 0 is 1 exactly in PHASE 1 to 12 and 15, bit 1 exactly in 13, bit 2 exactly in 14, and at most one of
the three is 1; a host write to STAT changes nothing. -/
def Obligations.StatusBitsFollowThePhase : Prop :=
  ∀ s : State,
    (s.stat.getLsbD 0 = true ↔ (1 ≤ s.phase.code.toNat ∧ s.phase.code.toNat ≤ 12) ∨ s.phase.code.toNat = 15) ∧
    (s.stat.getLsbD 1 = true ↔ s.phase.code.toNat = 13) ∧ (s.stat.getLsbD 2 = true ↔ s.phase.code.toNat = 14) ∧
    (s.stat = 0#3 ∨ s.stat = 1#3 ∨ s.stat = 2#3 ∨ s.stat = 4#3) ∧
    (∀ (v : Word) (l : List Input), s.inputs = .hostWrite .stat v :: l → step s = .next { s with inputs := l })

/-- Where the model stops, and only there (R47, R73, R104, R336): another party on the link while the block is busy, a
wire word outside its phase, and phase 10 at an entry of P that holds no value. A wire word out of its phase, the
missing entry and the other party's form are the model's choices (notes/assumptions/23.md, 14.md, 19.md). -/
def Obligations.StopsAreThese : Prop :=
  (∀ (s : State) (l : List Input), s.busy = true → s.inputs = .drainLink :: l →
    step s = .refused .thirdPartyOnLink) ∧
  (∀ (i : Instr) (s : State), i.opcode? = none → inPlace i s = false →
    ∃ m : String, exec i s = .refused (.wireOutOfContext m)) ∧
  (∀ s : State, s.phase = .main → s.nextMove = .turn → s.pidx.toNat < s.nwords.toNat →
    s.p.length ≤ s.pidx.toNat → step s = .fault .payloadEntryAbsent) ∧
  (∀ s : State, UploadSound s → (∀ l : List Input, s.inputs ≠ .drainLink :: l) → ∃ t : State, step s = .next t)

/-! ### Invariants -/

/-- Every step keeps the control part of a sound state (R31, R34, R35, R37, R40, R44). What it says of CMD in PHASE UNIT
and of when a delay is pending are the model's choices (notes/assumptions/10.md, 12.md). -/
def Obligations.StepKeepsControlSound : Prop :=
  ∀ s t : State, ControlSound s → step s = .next t → ControlSound t

/-- Every step keeps the data part of a sound state (R98, R136, R137, R154, R157, R174, R243): what the CRC has been fed,
how far the cipher has gone, how many words are left. That HSB, the cipher's start and the seal come with the response that
ends the phase before is notes/assumptions/13.md. -/
def Obligations.StepKeepsUploadSound : Prop :=
  ∀ s t : State, UploadSound s → step s = .next t → UploadSound t

/-- Every step keeps the canonical form of the image memory. The canonical form is the model's own
(notes/assumptions/4.md). -/
def Obligations.StepKeepsMemoryCanonical : Prop :=
  ∀ s t : State, Memory.wf s.img = true → step s = .next t → Memory.wf t.img = true

/-- The reset state is sound: with the values that R53 gives, the control part and the data part hold whatever the
unspecified registers are. That the image memory at reset has the canonical form is the model's own
(notes/assumptions/4.md), and so are the parts of a sound state that speak of CMD (notes/assumptions/10.md), of a pending
delay (notes/assumptions/12.md) and of the entry actions (notes/assumptions/13.md). -/
def Obligations.ResetStateIsSound : Prop :=
  Sound State.reset

/-! ### The transport -/

/-- What the moves on the link do, whatever the block is doing. A delivery puts its item behind what the receive stream
holds, so that deliveries arrive in order with none lost or duplicated (R69); the environment makes the next write fail
(R70); the host empties the receive stream while the block is not busy (R312). Nothing else changes. That these are moves
of the schedule is the model's choice (notes/assumptions/1.md, 19.md, 20.md, 25.md). -/
def Obligations.LinkMovesActOnTheTransportOnly : Prop :=
  ∀ (s : State) (l : List Input),
    (∀ x : RxItem, s.inputs = .deliver x :: l → step s = .next { s with inputs := l, rx := s.rx ++ [x] }) ∧
    (∀ xs : List RxItem, s.inputs = xs.map .deliver ++ l →
      Host.Core.run core xs.length s = .next { s with inputs := l, rx := s.rx ++ xs }) ∧
    (s.inputs = .failNextWrite :: l → step s = .next { s with inputs := l, txFail := true }) ∧
    (s.busy = false → s.inputs = .drainLink :: l → step s = .next { s with inputs := l, rx := [] })
end

