-- ==== Sys2Proof/Laws/State.lean ====
section
/-! SUPPORT. One lemma per field of State for each named update of it, true by rfl. -/

namespace Sys2Proof.Machine

/-! ### refuse -/

@[simp] theorem refuse_crc (s : State) : (refuse s).crc = s.crc := rfl
@[simp] theorem refuse_lcg (s : State) : (refuse s).lcg = s.lcg := rfl
@[simp] theorem refuse_pos (s : State) : (refuse s).pos = s.pos := rfl
@[simp] theorem refuse_seed (s : State) : (refuse s).seed = s.seed := rfl
@[simp] theorem refuse_hsb (s : State) : (refuse s).hsb = s.hsb := rfl
@[simp] theorem refuse_fcb (s : State) : (refuse s).fcb = s.fcb := rfl
@[simp] theorem refuse_opa (s : State) : (refuse s).opa = s.opa := rfl
@[simp] theorem refuse_opb (s : State) : (refuse s).opb = s.opb := rfl
@[simp] theorem refuse_opc (s : State) : (refuse s).opc = s.opc := rfl
@[simp] theorem refuse_opd (s : State) : (refuse s).opd = s.opd := rfl
@[simp] theorem refuse_res (s : State) : (refuse s).res = s.res := rfl
@[simp] theorem refuse_cmd (s : State) : (refuse s).cmd = s.cmd := rfl
@[simp] theorem refuse_len (s : State) : (refuse s).len = s.len := rfl
@[simp] theorem refuse_plen (s : State) : (refuse s).plen = s.plen := rfl
@[simp] theorem refuse_nwords (s : State) : (refuse s).nwords = s.nwords := rfl
@[simp] theorem refuse_prog (s : State) : (refuse s).prog = s.prog := rfl
@[simp] theorem refuse_refused (s : State) : (refuse s).refused = true := rfl
@[simp] theorem refuse_phase (s : State) : (refuse s).phase = s.phase := rfl
@[simp] theorem refuse_err (s : State) : (refuse s).err = s.err := rfl
@[simp] theorem refuse_rms (s : State) : (refuse s).rms = s.rms := rfl
@[simp] theorem refuse_stab (s : State) : (refuse s).stab = s.stab := rfl
@[simp] theorem refuse_hidx (s : State) : (refuse s).hidx = s.hidx := rfl
@[simp] theorem refuse_pidx (s : State) : (refuse s).pidx = s.pidx := rfl
@[simp] theorem refuse_sub (s : State) : (refuse s).sub = s.sub := rfl
@[simp] theorem refuse_wait (s : State) : (refuse s).wait = s.wait := rfl
@[simp] theorem refuse_xhalf (s : State) : (refuse s).xhalf = s.xhalf := rfl
@[simp] theorem refuse_h (s : State) : (refuse s).h = s.h := rfl
@[simp] theorem refuse_p (s : State) : (refuse s).p = s.p := rfl
@[simp] theorem refuse_img (s : State) : (refuse s).img = s.img := rfl
@[simp] theorem refuse_rx (s : State) : (refuse s).rx = s.rx := rfl
@[simp] theorem refuse_txFail (s : State) : (refuse s).txFail = s.txFail := rfl
@[simp] theorem refuse_inputs (s : State) : (refuse s).inputs = s.inputs := rfl
@[simp] theorem refuse_trace (s : State) : (refuse s).trace = s.trace := rfl
@[simp] theorem refuse_hostData (s : State) : (refuse s).hostData = s.hostData := rfl
@[simp] theorem refuse_draws (s : State) : (refuse s).draws = s.draws := rfl
@[simp] theorem refuse_busy (s : State) : (refuse s).busy = s.busy := rfl

/-! ### accept -/

@[simp] theorem accept_crc (op : BitVec 4) (s : State) : (accept op s).crc = s.crc := rfl
@[simp] theorem accept_lcg (op : BitVec 4) (s : State) : (accept op s).lcg = s.lcg := rfl
@[simp] theorem accept_pos (op : BitVec 4) (s : State) : (accept op s).pos = s.pos := rfl
@[simp] theorem accept_seed (op : BitVec 4) (s : State) : (accept op s).seed = s.seed := rfl
@[simp] theorem accept_hsb (op : BitVec 4) (s : State) : (accept op s).hsb = s.hsb := rfl
@[simp] theorem accept_fcb (op : BitVec 4) (s : State) : (accept op s).fcb = s.fcb := rfl
@[simp] theorem accept_opa (op : BitVec 4) (s : State) : (accept op s).opa = s.opa := rfl
@[simp] theorem accept_opb (op : BitVec 4) (s : State) : (accept op s).opb = s.opb := rfl
@[simp] theorem accept_opc (op : BitVec 4) (s : State) : (accept op s).opc = s.opc := rfl
@[simp] theorem accept_opd (op : BitVec 4) (s : State) : (accept op s).opd = s.opd := rfl
@[simp] theorem accept_res (op : BitVec 4) (s : State) : (accept op s).res = s.res := rfl
@[simp] theorem accept_cmd (op : BitVec 4) (s : State) : (accept op s).cmd = op := rfl
@[simp] theorem accept_len (op : BitVec 4) (s : State) : (accept op s).len = s.len := rfl
@[simp] theorem accept_plen (op : BitVec 4) (s : State) : (accept op s).plen = s.plen := rfl
@[simp] theorem accept_nwords (op : BitVec 4) (s : State) : (accept op s).nwords = s.nwords := rfl
@[simp] theorem accept_prog (op : BitVec 4) (s : State) : (accept op s).prog = s.prog := rfl
@[simp] theorem accept_refused (op : BitVec 4) (s : State) : (accept op s).refused = false := rfl
@[simp] theorem accept_phase (op : BitVec 4) (s : State) : (accept op s).phase = .idle := rfl
@[simp] theorem accept_err (op : BitVec 4) (s : State) : (accept op s).err = ErrRecord.none := rfl
@[simp] theorem accept_rms (op : BitVec 4) (s : State) : (accept op s).rms = s.rms := rfl
@[simp] theorem accept_stab (op : BitVec 4) (s : State) : (accept op s).stab = s.stab := rfl
@[simp] theorem accept_hidx (op : BitVec 4) (s : State) : (accept op s).hidx = s.hidx := rfl
@[simp] theorem accept_pidx (op : BitVec 4) (s : State) : (accept op s).pidx = s.pidx := rfl
@[simp] theorem accept_sub (op : BitVec 4) (s : State) : (accept op s).sub = s.sub := rfl
@[simp] theorem accept_wait (op : BitVec 4) (s : State) : (accept op s).wait = s.wait := rfl
@[simp] theorem accept_xhalf (op : BitVec 4) (s : State) : (accept op s).xhalf = s.xhalf := rfl
@[simp] theorem accept_h (op : BitVec 4) (s : State) : (accept op s).h = s.h := rfl
@[simp] theorem accept_p (op : BitVec 4) (s : State) : (accept op s).p = s.p := rfl
@[simp] theorem accept_img (op : BitVec 4) (s : State) : (accept op s).img = s.img := rfl
@[simp] theorem accept_rx (op : BitVec 4) (s : State) : (accept op s).rx = s.rx := rfl
@[simp] theorem accept_txFail (op : BitVec 4) (s : State) : (accept op s).txFail = s.txFail := rfl
@[simp] theorem accept_inputs (op : BitVec 4) (s : State) : (accept op s).inputs = s.inputs := rfl
@[simp] theorem accept_trace (op : BitVec 4) (s : State) : (accept op s).trace = s.trace := rfl
@[simp] theorem accept_hostData (op : BitVec 4) (s : State) : (accept op s).hostData = s.hostData := rfl
@[simp] theorem accept_draws (op : BitVec 4) (s : State) : (accept op s).draws = s.draws := rfl
@[simp] theorem accept_busy (op : BitVec 4) (s : State) : (accept op s).busy = false := rfl

/-! ### raise -/

@[simp] theorem raise_crc (k : ErrKind) (s : State) : (raise k s).crc = s.crc := rfl
@[simp] theorem raise_lcg (k : ErrKind) (s : State) : (raise k s).lcg = s.lcg := rfl
@[simp] theorem raise_pos (k : ErrKind) (s : State) : (raise k s).pos = s.pos := rfl
@[simp] theorem raise_seed (k : ErrKind) (s : State) : (raise k s).seed = s.seed := rfl
@[simp] theorem raise_hsb (k : ErrKind) (s : State) : (raise k s).hsb = s.hsb := rfl
@[simp] theorem raise_fcb (k : ErrKind) (s : State) : (raise k s).fcb = s.fcb := rfl
@[simp] theorem raise_opa (k : ErrKind) (s : State) : (raise k s).opa = s.opa := rfl
@[simp] theorem raise_opb (k : ErrKind) (s : State) : (raise k s).opb = s.opb := rfl
@[simp] theorem raise_opc (k : ErrKind) (s : State) : (raise k s).opc = s.opc := rfl
@[simp] theorem raise_opd (k : ErrKind) (s : State) : (raise k s).opd = s.opd := rfl
@[simp] theorem raise_res (k : ErrKind) (s : State) : (raise k s).res = s.res := rfl
@[simp] theorem raise_cmd (k : ErrKind) (s : State) : (raise k s).cmd = s.cmd := rfl
@[simp] theorem raise_len (k : ErrKind) (s : State) : (raise k s).len = s.len := rfl
@[simp] theorem raise_plen (k : ErrKind) (s : State) : (raise k s).plen = s.plen := rfl
@[simp] theorem raise_nwords (k : ErrKind) (s : State) : (raise k s).nwords = s.nwords := rfl
@[simp] theorem raise_prog (k : ErrKind) (s : State) : (raise k s).prog = s.prog := rfl
@[simp] theorem raise_refused (k : ErrKind) (s : State) : (raise k s).refused = s.refused := rfl
@[simp] theorem raise_phase (k : ErrKind) (s : State) : (raise k s).phase = .error := rfl
@[simp] theorem raise_err (k : ErrKind) (s : State) : (raise k s).err = k.record s.phase := rfl
@[simp] theorem raise_rms (k : ErrKind) (s : State) : (raise k s).rms = s.rms := rfl
@[simp] theorem raise_stab (k : ErrKind) (s : State) : (raise k s).stab = s.stab := rfl
@[simp] theorem raise_hidx (k : ErrKind) (s : State) : (raise k s).hidx = s.hidx := rfl
@[simp] theorem raise_pidx (k : ErrKind) (s : State) : (raise k s).pidx = s.pidx := rfl
@[simp] theorem raise_sub (k : ErrKind) (s : State) : (raise k s).sub = s.sub := rfl
@[simp] theorem raise_wait (k : ErrKind) (s : State) : (raise k s).wait = false := rfl
@[simp] theorem raise_xhalf (k : ErrKind) (s : State) : (raise k s).xhalf = false := rfl
@[simp] theorem raise_h (k : ErrKind) (s : State) : (raise k s).h = s.h := rfl
@[simp] theorem raise_p (k : ErrKind) (s : State) : (raise k s).p = s.p := rfl
@[simp] theorem raise_img (k : ErrKind) (s : State) : (raise k s).img = s.img := rfl
@[simp] theorem raise_rx (k : ErrKind) (s : State) : (raise k s).rx = s.rx := rfl
@[simp] theorem raise_txFail (k : ErrKind) (s : State) : (raise k s).txFail = s.txFail := rfl
@[simp] theorem raise_inputs (k : ErrKind) (s : State) : (raise k s).inputs = s.inputs := rfl
@[simp] theorem raise_trace (k : ErrKind) (s : State) : (raise k s).trace = s.trace ++ [.error (k.record s.phase)] := rfl
@[simp] theorem raise_hostData (k : ErrKind) (s : State) : (raise k s).hostData = s.hostData := rfl
@[simp] theorem raise_draws (k : ErrKind) (s : State) : (raise k s).draws = s.draws := rfl
@[simp] theorem raise_busy (k : ErrKind) (s : State) : (raise k s).busy = false := rfl

/-! ### delayEnds -/

@[simp] theorem delayEnds_crc (us : Word) (s : State) : (delayEnds us s).crc = s.crc := rfl
@[simp] theorem delayEnds_lcg (us : Word) (s : State) : (delayEnds us s).lcg = s.lcg := rfl
@[simp] theorem delayEnds_pos (us : Word) (s : State) : (delayEnds us s).pos = s.pos := rfl
@[simp] theorem delayEnds_seed (us : Word) (s : State) : (delayEnds us s).seed = s.seed := rfl
@[simp] theorem delayEnds_hsb (us : Word) (s : State) : (delayEnds us s).hsb = s.hsb := rfl
@[simp] theorem delayEnds_fcb (us : Word) (s : State) : (delayEnds us s).fcb = s.fcb := rfl
@[simp] theorem delayEnds_opa (us : Word) (s : State) : (delayEnds us s).opa = s.opa := rfl
@[simp] theorem delayEnds_opb (us : Word) (s : State) : (delayEnds us s).opb = s.opb := rfl
@[simp] theorem delayEnds_opc (us : Word) (s : State) : (delayEnds us s).opc = s.opc := rfl
@[simp] theorem delayEnds_opd (us : Word) (s : State) : (delayEnds us s).opd = s.opd := rfl
@[simp] theorem delayEnds_res (us : Word) (s : State) : (delayEnds us s).res = s.res := rfl
@[simp] theorem delayEnds_cmd (us : Word) (s : State) : (delayEnds us s).cmd = s.cmd := rfl
@[simp] theorem delayEnds_len (us : Word) (s : State) : (delayEnds us s).len = s.len := rfl
@[simp] theorem delayEnds_plen (us : Word) (s : State) : (delayEnds us s).plen = s.plen := rfl
@[simp] theorem delayEnds_nwords (us : Word) (s : State) : (delayEnds us s).nwords = s.nwords := rfl
@[simp] theorem delayEnds_prog (us : Word) (s : State) : (delayEnds us s).prog = s.prog := rfl
@[simp] theorem delayEnds_refused (us : Word) (s : State) : (delayEnds us s).refused = s.refused := rfl
@[simp] theorem delayEnds_phase (us : Word) (s : State) : (delayEnds us s).phase = s.phase := rfl
@[simp] theorem delayEnds_err (us : Word) (s : State) : (delayEnds us s).err = s.err := rfl
@[simp] theorem delayEnds_rms (us : Word) (s : State) : (delayEnds us s).rms = s.rms := rfl
@[simp] theorem delayEnds_stab (us : Word) (s : State) : (delayEnds us s).stab = s.stab := rfl
@[simp] theorem delayEnds_hidx (us : Word) (s : State) : (delayEnds us s).hidx = s.hidx := rfl
@[simp] theorem delayEnds_pidx (us : Word) (s : State) : (delayEnds us s).pidx = s.pidx := rfl
@[simp] theorem delayEnds_sub (us : Word) (s : State) : (delayEnds us s).sub = s.sub := rfl
@[simp] theorem delayEnds_wait (us : Word) (s : State) : (delayEnds us s).wait = false := rfl
@[simp] theorem delayEnds_xhalf (us : Word) (s : State) : (delayEnds us s).xhalf = s.xhalf := rfl
@[simp] theorem delayEnds_h (us : Word) (s : State) : (delayEnds us s).h = s.h := rfl
@[simp] theorem delayEnds_p (us : Word) (s : State) : (delayEnds us s).p = s.p := rfl
@[simp] theorem delayEnds_img (us : Word) (s : State) : (delayEnds us s).img = s.img := rfl
@[simp] theorem delayEnds_rx (us : Word) (s : State) : (delayEnds us s).rx = s.rx := rfl
@[simp] theorem delayEnds_txFail (us : Word) (s : State) : (delayEnds us s).txFail = s.txFail := rfl
@[simp] theorem delayEnds_inputs (us : Word) (s : State) : (delayEnds us s).inputs = s.inputs := rfl
@[simp] theorem delayEnds_trace (us : Word) (s : State) : (delayEnds us s).trace = s.trace ++ [.delay us] := rfl
@[simp] theorem delayEnds_hostData (us : Word) (s : State) : (delayEnds us s).hostData = s.hostData := rfl
@[simp] theorem delayEnds_draws (us : Word) (s : State) : (delayEnds us s).draws = s.draws := rfl
@[simp] theorem delayEnds_busy (us : Word) (s : State) : (delayEnds us s).busy = s.busy := rfl

/-! ### cipherAdvance -/

@[simp] theorem cipherAdvance_crc (s : State) : (cipherAdvance s).crc = s.crc := rfl
@[simp] theorem cipherAdvance_lcg (s : State) : (cipherAdvance s).lcg = lcgNext s.lcg := rfl
@[simp] theorem cipherAdvance_pos (s : State) : (cipherAdvance s).pos = s.pos - Config.posStep := rfl
@[simp] theorem cipherAdvance_seed (s : State) : (cipherAdvance s).seed = s.seed := rfl
@[simp] theorem cipherAdvance_hsb (s : State) : (cipherAdvance s).hsb = s.hsb := rfl
@[simp] theorem cipherAdvance_fcb (s : State) : (cipherAdvance s).fcb = s.fcb := rfl
@[simp] theorem cipherAdvance_opa (s : State) : (cipherAdvance s).opa = s.opa := rfl
@[simp] theorem cipherAdvance_opb (s : State) : (cipherAdvance s).opb = s.opb := rfl
@[simp] theorem cipherAdvance_opc (s : State) : (cipherAdvance s).opc = s.opc := rfl
@[simp] theorem cipherAdvance_opd (s : State) : (cipherAdvance s).opd = s.opd := rfl
@[simp] theorem cipherAdvance_res (s : State) : (cipherAdvance s).res = s.res := rfl
@[simp] theorem cipherAdvance_cmd (s : State) : (cipherAdvance s).cmd = s.cmd := rfl
@[simp] theorem cipherAdvance_len (s : State) : (cipherAdvance s).len = s.len := rfl
@[simp] theorem cipherAdvance_plen (s : State) : (cipherAdvance s).plen = s.plen := rfl
@[simp] theorem cipherAdvance_nwords (s : State) : (cipherAdvance s).nwords = s.nwords := rfl
@[simp] theorem cipherAdvance_prog (s : State) : (cipherAdvance s).prog = s.prog := rfl
@[simp] theorem cipherAdvance_refused (s : State) : (cipherAdvance s).refused = s.refused := rfl
@[simp] theorem cipherAdvance_phase (s : State) : (cipherAdvance s).phase = s.phase := rfl
@[simp] theorem cipherAdvance_err (s : State) : (cipherAdvance s).err = s.err := rfl
@[simp] theorem cipherAdvance_rms (s : State) : (cipherAdvance s).rms = s.rms := rfl
@[simp] theorem cipherAdvance_stab (s : State) : (cipherAdvance s).stab = s.stab := rfl
@[simp] theorem cipherAdvance_hidx (s : State) : (cipherAdvance s).hidx = s.hidx := rfl
@[simp] theorem cipherAdvance_pidx (s : State) : (cipherAdvance s).pidx = s.pidx := rfl
@[simp] theorem cipherAdvance_sub (s : State) : (cipherAdvance s).sub = s.sub := rfl
@[simp] theorem cipherAdvance_wait (s : State) : (cipherAdvance s).wait = s.wait := rfl
@[simp] theorem cipherAdvance_xhalf (s : State) : (cipherAdvance s).xhalf = s.xhalf := rfl
@[simp] theorem cipherAdvance_h (s : State) : (cipherAdvance s).h = s.h := rfl
@[simp] theorem cipherAdvance_p (s : State) : (cipherAdvance s).p = s.p := rfl
@[simp] theorem cipherAdvance_img (s : State) : (cipherAdvance s).img = s.img := rfl
@[simp] theorem cipherAdvance_rx (s : State) : (cipherAdvance s).rx = s.rx := rfl
@[simp] theorem cipherAdvance_txFail (s : State) : (cipherAdvance s).txFail = s.txFail := rfl
@[simp] theorem cipherAdvance_inputs (s : State) : (cipherAdvance s).inputs = s.inputs := rfl
@[simp] theorem cipherAdvance_trace (s : State) : (cipherAdvance s).trace = s.trace := rfl
@[simp] theorem cipherAdvance_hostData (s : State) : (cipherAdvance s).hostData = s.hostData := rfl
@[simp] theorem cipherAdvance_draws (s : State) : (cipherAdvance s).draws = s.draws := rfl
@[simp] theorem cipherAdvance_busy (s : State) : (cipherAdvance s).busy = s.busy := rfl

/-! ### pop -/

@[simp] theorem State.pop_crc (s : State) : (s.pop).crc = s.crc := rfl
@[simp] theorem State.pop_lcg (s : State) : (s.pop).lcg = s.lcg := rfl
@[simp] theorem State.pop_pos (s : State) : (s.pop).pos = s.pos := rfl
@[simp] theorem State.pop_seed (s : State) : (s.pop).seed = s.seed := rfl
@[simp] theorem State.pop_hsb (s : State) : (s.pop).hsb = s.hsb := rfl
@[simp] theorem State.pop_fcb (s : State) : (s.pop).fcb = s.fcb := rfl
@[simp] theorem State.pop_opa (s : State) : (s.pop).opa = s.opa := rfl
@[simp] theorem State.pop_opb (s : State) : (s.pop).opb = s.opb := rfl
@[simp] theorem State.pop_opc (s : State) : (s.pop).opc = s.opc := rfl
@[simp] theorem State.pop_opd (s : State) : (s.pop).opd = s.opd := rfl
@[simp] theorem State.pop_res (s : State) : (s.pop).res = s.res := rfl
@[simp] theorem State.pop_cmd (s : State) : (s.pop).cmd = s.cmd := rfl
@[simp] theorem State.pop_len (s : State) : (s.pop).len = s.len := rfl
@[simp] theorem State.pop_plen (s : State) : (s.pop).plen = s.plen := rfl
@[simp] theorem State.pop_nwords (s : State) : (s.pop).nwords = s.nwords := rfl
@[simp] theorem State.pop_prog (s : State) : (s.pop).prog = s.prog := rfl
@[simp] theorem State.pop_refused (s : State) : (s.pop).refused = s.refused := rfl
@[simp] theorem State.pop_phase (s : State) : (s.pop).phase = s.phase := rfl
@[simp] theorem State.pop_err (s : State) : (s.pop).err = s.err := rfl
@[simp] theorem State.pop_rms (s : State) : (s.pop).rms = s.rms := rfl
@[simp] theorem State.pop_stab (s : State) : (s.pop).stab = s.stab := rfl
@[simp] theorem State.pop_hidx (s : State) : (s.pop).hidx = s.hidx := rfl
@[simp] theorem State.pop_pidx (s : State) : (s.pop).pidx = s.pidx := rfl
@[simp] theorem State.pop_sub (s : State) : (s.pop).sub = s.sub := rfl
@[simp] theorem State.pop_wait (s : State) : (s.pop).wait = s.wait := rfl
@[simp] theorem State.pop_xhalf (s : State) : (s.pop).xhalf = s.xhalf := rfl
@[simp] theorem State.pop_h (s : State) : (s.pop).h = s.h := rfl
@[simp] theorem State.pop_p (s : State) : (s.pop).p = s.p := rfl
@[simp] theorem State.pop_img (s : State) : (s.pop).img = s.img := rfl
@[simp] theorem State.pop_rx (s : State) : (s.pop).rx = s.rx := rfl
@[simp] theorem State.pop_txFail (s : State) : (s.pop).txFail = s.txFail := rfl
@[simp] theorem State.pop_inputs (s : State) : (s.pop).inputs = s.inputs.tail := rfl
@[simp] theorem State.pop_trace (s : State) : (s.pop).trace = s.trace := rfl
@[simp] theorem State.pop_hostData (s : State) : (s.pop).hostData = s.hostData := rfl
@[simp] theorem State.pop_draws (s : State) : (s.pop).draws = s.draws := rfl
@[simp] theorem State.pop_busy (s : State) : (s.pop).busy = s.busy := rfl

end Sys2Proof.Machine
end

