-- ==== Sys2Proof/Laws/Ops.lean ====
section
/-! SUPPORT. One lemma per shared operation that says once everything it can do, with the equations of its cases. -/

namespace Sys2Proof.Machine

/-! ### Frames and the receive stream -/

@[simp] theorem frameWord_frameBytes (w : Word) :
    frameWord (w.extractLsb' 24 8) (w.extractLsb' 16 8) (w.extractLsb' 8 8) (w.extractLsb' 0 8) = w := by
  apply BitVec.eq_of_getLsbD_eq
  intro i hi
  simp only [frameWord, BitVec.getLsbD_append, BitVec.getLsbD_extractLsb']
  split_ifs <;> (rw [decide_eq_true (by omega), Bool.true_and]; congr 1; omega)

/-- The decoder reads back the frame of a word. -/
theorem decode_frameBytes (c : WireCtx) (w : Word) : decode (.wire c) (frameBytes w) = decodeWire c w := by
  simp [decode, frameBytes]

/-- The frame of a 16-bit word: two zero bytes, then its bytes, the more significant first. -/
theorem frameBytes_zext16 (h : Half) :
    frameBytes (zext16 h) = [0x00#8, 0x00#8, h.extractLsb' 8 8, h.extractLsb' 0 8] := by
  simp only [frameBytes, zext16, List.cons.injEq, and_true]
  refine ⟨?_, ?_, ?_, ?_⟩ <;> apply BitVec.eq_of_getLsbD_eq <;> intro j hj <;> simp [hj]
  all_goals try omega
  intro _
  exact BitVec.getLsbD_of_ge _ _ (by omega)

@[simp] theorem linkRead_frame (c0 c1 c2 c3 : Byte) (rest : List RxItem) :
    linkRead (.byte c0 :: .byte c1 :: .byte c2 :: .byte c3 :: rest) = .frame c0 c1 c2 c3 rest := rfl

/-- The only way a read completes is four delivered bytes at the front. -/
theorem linkRead_eq_frame {rx : List RxItem} {c0 c1 c2 c3 : Byte} {rest : List RxItem}
    (h : linkRead rx = .frame c0 c1 c2 c3 rest) : rx = .byte c0 :: .byte c1 :: .byte c2 :: .byte c3 :: rest := by
  unfold linkRead at h
  split at h
  · cases h
    rfl
  · split at h <;> cases h

/-! ### Transfers -/

/-- Everything `writeHalf` can do. -/
theorem writeHalf_spec {motive : State → Prop} (w : Word) (s : State)
    (ok : s.txFail = false → motive { s with xhalf := true, trace := s.trace ++ [.wrote (frameBytes w)] })
    (fail : s.txFail = true → motive (raise .writeFailed
      { s with
        txFail := false
        draws := s.draws + 1
        trace := s.trace ++ [.wrote ((frameBytes w).take (Config.freeCount s.draws % 5))] })) :
    motive (writeHalf w s) := by
  unfold writeHalf
  split
  next h => exact fail h
  next h => exact ok (Bool.eq_false_iff.2 h)

/-- Everything `readHalf` can do. -/
theorem readHalf_spec {motive : State → Prop} (k : Half → State → State) (s : State)
    (frame : ∀ c0 c1 c2 c3 rest, s.rx = .byte c0 :: .byte c1 :: .byte c2 :: .byte c3 :: rest →
      motive (k (c0 ++ c1) { s with rx := rest, xhalf := false, trace := s.trace ++ [.took [c0, c1, c2, c3]] }))
    (failed : ∀ got rest, linkRead s.rx = .failed got rest → motive (readAborted .readFailed got rest s))
    (ended : ∀ got rest, linkRead s.rx = .ended got rest → motive (readAborted .endOfStream got rest s))
    (waiting : linkRead s.rx = .waiting → motive s) :
    motive (readHalf k s) := by
  unfold readHalf
  split
  · exact frame _ _ _ _ _ (linkRead_eq_frame ‹_›)
  · exact failed _ _ ‹_›
  · exact ended _ _ ‹_›
  · exact waiting ‹_›

/-- Everything `transfer` can do. -/
theorem transfer_spec {motive : State → Prop} (w : Word) (k : Half → State → State) (s : State)
    (wrote : s.xhalf = false → s.txFail = false →
      motive { s with xhalf := true, trace := s.trace ++ [.wrote (frameBytes w)] })
    (writeFailed : s.xhalf = false → s.txFail = true → motive (raise .writeFailed
      { s with
        txFail := false
        draws := s.draws + 1
        trace := s.trace ++ [.wrote ((frameBytes w).take (Config.freeCount s.draws % 5))] }))
    (frame : ∀ c0 c1 c2 c3 rest, s.xhalf = true →
      s.rx = .byte c0 :: .byte c1 :: .byte c2 :: .byte c3 :: rest →
      motive (k (c0 ++ c1) { s with rx := rest, xhalf := false, trace := s.trace ++ [.took [c0, c1, c2, c3]] }))
    (failed : ∀ got rest, s.xhalf = true → linkRead s.rx = .failed got rest →
      motive (readAborted .readFailed got rest s))
    (ended : ∀ got rest, s.xhalf = true → linkRead s.rx = .ended got rest →
      motive (readAborted .endOfStream got rest s))
    (waiting : s.xhalf = true → linkRead s.rx = .waiting → motive s) :
    motive (transfer w k s) := by
  unfold transfer
  split
  next hx =>
    exact readHalf_spec k s (fun c0 c1 c2 c3 rest => frame c0 c1 c2 c3 rest hx) (fun got rest => failed got rest hx)
      (fun got rest => ended got rest hx) (waiting hx)
  next hx =>
    exact writeHalf_spec w s (wrote (Bool.eq_false_iff.2 hx)) (writeFailed (Bool.eq_false_iff.2 hx))

theorem transfer_write {w : Word} {k : Half → State → State} {s : State} (hx : s.xhalf = false)
    (hf : s.txFail = false) :
    transfer w k s = { s with xhalf := true, trace := s.trace ++ [.wrote (frameBytes w)] } := by
  simp [transfer, writeHalf, hx, hf]

theorem transfer_read {w : Word} {k : Half → State → State} {s : State} {c0 c1 c2 c3 : Byte} {rest : List RxItem}
    (hx : s.xhalf = true) (hr : s.rx = .byte c0 :: .byte c1 :: .byte c2 :: .byte c3 :: rest) :
    transfer w k s =
      k (c0 ++ c1) { s with rx := rest, xhalf := false, trace := s.trace ++ [.took [c0, c1, c2, c3]] } := by
  simp [transfer, readHalf, hx, hr]

theorem transfer_waits {w : Word} {k : Half → State → State} {s : State} (hx : s.xhalf = true)
    (hr : linkRead s.rx = .waiting) : transfer w k s = s := by
  simp [transfer, readHalf, hx, hr]

/-! ### Life of a command -/

theorem unitAtomic_idle {op : BitVec 4} {f : State → State} {s : State} (h : s.busy = false) :
    unitAtomic op f s = f (accept op s) := by
  simp [unitAtomic, h]

theorem unitAtomic_busy {op : BitVec 4} {f : State → State} {s : State} (h : s.busy = true) :
    unitAtomic op f s = refuse s := by
  simp [unitAtomic, h]

theorem unitCommand_idle {op : BitVec 4} {run : State → State} {s : State} (h : s.busy = false) :
    unitCommand op run s = { accept op s with phase := .unit } := by
  simp [unitCommand, h]

theorem unitCommand_running {op : BitVec 4} {run : State → State} {s : State} (h : s.phase = .unit)
    (hc : s.cmd = op) : unitCommand op run s = run s := by
  simp [unitCommand, State.busy, Phase.isBusy, h, hc]

/-- Everything `unitAtomic` can do. -/
theorem unitAtomic_spec {motive : State → Prop} (op : BitVec 4) (f : State → State) (s : State)
    (refused : s.busy = true → motive (refuse s)) (accepted : s.busy = false → motive (f (accept op s))) :
    motive (unitAtomic op f s) := by
  unfold unitAtomic
  split
  next h => exact refused h
  next h => exact accepted (Bool.eq_false_iff.2 h)

/-- Everything `unitCommand` can do. -/
theorem unitCommand_spec {motive : State → Prop} (op : BitVec 4) (run : State → State) (s : State)
    (accepted : s.busy = false → motive { accept op s with phase := .unit })
    (running : s.phase = .unit → s.cmd = op → motive (run s))
    (refused : s.busy = true → ¬(s.phase = .unit ∧ s.cmd = op) → motive (refuse s)) :
    motive (unitCommand op run s) := by
  unfold unitCommand
  split
  next hb =>
    split
    next h => exact running h.1 h.2
    next h => exact refused hb h
  next hb => exact accepted (Bool.eq_false_iff.2 hb)

/-- Everything `buildThen` can do. -/
theorem buildThen_spec {motive : State → Prop} (k : State → State) (s : State)
    (rejected : ∀ e, sizeError s.len = some e → motive (raise e s))
    (built : sizeError s.len = none → motive (k (loadImage s))) : motive (buildThen k s) := by
  unfold buildThen
  split
  · exact rejected _ ‹_›
  · exact built ‹_›

/-- Everything `sendDemanding` can do. -/
theorem sendDemanding_spec {motive : State → Prop} (w e m : Half) (k : Half → State → State) (s : State)
    (wrote : s.xhalf = false → s.txFail = false →
      motive { s with xhalf := true, trace := s.trace ++ [.wrote (frameBytes (zext16 w))] })
    (writeFailed : s.xhalf = false → s.txFail = true → motive (raise .writeFailed
      { s with
        txFail := false
        draws := s.draws + 1
        trace := s.trace ++ [.wrote ((frameBytes (zext16 w)).take (Config.freeCount s.draws % 5))] }))
    (matched : ∀ c0 c1 c2 c3 rest, s.xhalf = true →
      s.rx = .byte c0 :: .byte c1 :: .byte c2 :: .byte c3 :: rest → responseMatches (c0 ++ c1) e m = true →
      motive (k (c0 ++ c1) { s with rx := rest, xhalf := false, trace := s.trace ++ [.took [c0, c1, c2, c3]] }))
    (unexpected : ∀ c0 c1 c2 c3 rest, s.xhalf = true →
      s.rx = .byte c0 :: .byte c1 :: .byte c2 :: .byte c3 :: rest → responseMatches (c0 ++ c1) e m = false →
      motive (raise (.unexpected w e m (c0 ++ c1))
        { s with rx := rest, xhalf := false, trace := s.trace ++ [.took [c0, c1, c2, c3]] }))
    (failed : ∀ got rest, s.xhalf = true → linkRead s.rx = .failed got rest →
      motive (readAborted .readFailed got rest s))
    (ended : ∀ got rest, s.xhalf = true → linkRead s.rx = .ended got rest →
      motive (readAborted .endOfStream got rest s))
    (waiting : s.xhalf = true → linkRead s.rx = .waiting → motive s) :
    motive (sendDemanding w e m k s) := by
  unfold sendDemanding
  refine transfer_spec _ _ s wrote writeFailed (fun c0 c1 c2 c3 rest hx hr => ?_) failed ended waiting
  split
  next h => exact matched c0 c1 c2 c3 rest hx hr h
  next h => exact unexpected c0 c1 c2 c3 rest hx hr (Bool.eq_false_iff.2 h)

/-- Everything `sendUntil` can do. -/
theorem sendUntil_spec {motive : State → Prop} (w e m : Half) (d : Word) (k : Half → State → State) (s : State)
    (delayed : s.wait = true → motive (delayEnds d s))
    (wrote : s.wait = false → s.xhalf = false → s.txFail = false →
      motive { s with xhalf := true, trace := s.trace ++ [.wrote (frameBytes (zext16 w))] })
    (writeFailed : s.wait = false → s.xhalf = false → s.txFail = true → motive (raise .writeFailed
      { s with
        txFail := false
        draws := s.draws + 1
        trace := s.trace ++ [.wrote ((frameBytes (zext16 w)).take (Config.freeCount s.draws % 5))] }))
    (matched : ∀ c0 c1 c2 c3 rest, s.wait = false → s.xhalf = true →
      s.rx = .byte c0 :: .byte c1 :: .byte c2 :: .byte c3 :: rest → responseMatches (c0 ++ c1) e m = true →
      motive (k (c0 ++ c1) { s with rx := rest, xhalf := false, trace := s.trace ++ [.took [c0, c1, c2, c3]] }))
    (again : ∀ c0 c1 c2 c3 rest, s.wait = false → s.xhalf = true →
      s.rx = .byte c0 :: .byte c1 :: .byte c2 :: .byte c3 :: rest → responseMatches (c0 ++ c1) e m = false →
      motive { s with
        rx := rest, xhalf := false, trace := s.trace ++ [.took [c0, c1, c2, c3]]
        wait := if d = 0#32 then s.wait else true })
    (failed : ∀ got rest, s.wait = false → s.xhalf = true → linkRead s.rx = .failed got rest →
      motive (readAborted .readFailed got rest s))
    (ended : ∀ got rest, s.wait = false → s.xhalf = true → linkRead s.rx = .ended got rest →
      motive (readAborted .endOfStream got rest s))
    (waiting : s.wait = false → s.xhalf = true → linkRead s.rx = .waiting → motive s) :
    motive (sendUntil w e m d k s) := by
  unfold sendUntil
  split
  next h => exact delayed h
  next h =>
    have hw : s.wait = false := Bool.eq_false_iff.2 h
    refine transfer_spec _ _ s (wrote hw) (writeFailed hw) (fun c0 c1 c2 c3 rest hx hr => ?_)
      (fun got rest => failed got rest hw) (fun got rest => ended got rest hw) (waiting hw)
    split
    next hm => exact matched c0 c1 c2 c3 rest hw hx hr hm
    next hm =>
      have := again c0 c1 c2 c3 rest hw hx hr (Bool.eq_false_iff.2 hm)
      split
      next hd => simpa [hd] using this
      next hd => simpa [hd] using this

end Sys2Proof.Machine
end

