-- ==== Sys2Proof/Laws/Step.lean ====
section
/-! SUPPORT. What a step is: the fetched bytes always decode, and a step is the execution of what was fetched or a move
that runs no instruction. -/

namespace Sys2Proof.Machine

/-- The instruction the sequencer or the running unit command is at. -/
def blockInstr (s : State) : Option Instr :=
  match s.phase with
  | .idle | .fixedDelay | .done | .error => none
  | .unit => some (decodeOpcode s.cmd)
  | .discover | .stabilize => some .wPoll
  | .pr1 => some .wPr1
  | .headers => if hi : s.hidx.toNat < 96 then some (.wHdr s.h[s.hidx.toNat]) else some .wHdrend
  | .pr2 => some .wPr2
  | .palette => some .wPal
  | .handshake => some (.wHs s.hsb)
  | .length => some (.wLen (lengthWord s.nwords))
  | .main => if s.pidx.toNat < s.nwords.toNat then (s.p[s.pidx.toNat]?).map fun src => .wData (dataWord s src) else none
  | .prepCrc => if s.sub then some .wCrcgo else some .wCrcreq
  | .sendCrc => some (.wCrc s.crc)

/-- The instruction the next step runs, if any. -/
def nextInstr (s : State) : Option Instr :=
  match s.nextMove with
  | .turn => blockInstr s
  | .hostWrite r v => if r = .cmd ∧ s.busy = false then some (decodeOpcode (v.setWidth 4)) else none
  | .hostRead _ | .hostImage _ _ | .deliver _ | .failNextWrite | .drainLink | .reset _ => none

theorem decodeOpen16_zext16 (c : WireCtx) (mk : Half → Instr) (h : Half) :
    decodeOpen16 c mk (zext16 h) = .ok (mk h) := by
  have h1 : (zext16 h).extractLsb' 16 16 = 0#16 := by
    ext i hi
    simp [zext16]
  have h2 : (zext16 h).extractLsb' 0 16 = h := by
    apply BitVec.eq_of_getLsbD_eq
    intro i hi
    simp [zext16, hi, show i < 32 by omega]
  simp [decodeOpen16, h1, h2]

theorem decodeWire_handshake (b : Byte) : decodeWire .hs (zext16 (handshakeWord b)) = .ok (.wHs b) := by
  revert b
  decide

theorem decode_cmd (op : BitVec 4) : decode .cmd [op.setWidth 8] = .ok (decodeOpcode op) := by
  revert op
  decide

theorem decode_cmd_word (v : Word) : decode .cmd [v.setWidth 8] = .ok (decodeOpcode (v.setWidth 4)) := by
  simp [decode]

theorem decode_blockFetch (s : State) :
    (blockFetch s).map (fun x => decode x.1 x.2) = (blockInstr s).map .ok := by
  unfold blockFetch blockInstr nextWire
  cases hp : s.phase <;>
    simp [decode_cmd, decode_frameBytes, decodeWire, decodeFixed, decodeOpen16_zext16]
  case headers => split <;> simp [decode_frameBytes, decodeWire, decodeFixed, decodeOpen16_zext16]
  case handshake => simpa [decodeWire] using decodeWire_handshake s.hsb
  case main =>
    split
    · cases s.p[s.pidx.toNat]? <;> simp [decode_frameBytes, decodeWire]
    · rfl
  case prepCrc => split <;> simp [decode_frameBytes, decodeWire, decodeFixed]

/-- The fetched bytes always decode, to `nextInstr`. -/
theorem fetch_decodes (s : State) : (fetchBytes s).map (fun x => decode x.1 x.2) = (nextInstr s).map .ok := by
  unfold fetchBytes nextInstr
  cases s.nextMove with
  | turn => exact decode_blockFetch s
  | hostWrite r v =>
    by_cases h : r = .cmd ∧ s.busy = false
    · simp [h, decode_cmd_word]
    · simp [h]
  | _ => rfl

/-- A step runs the next instruction if there is one, and makes a move without instruction otherwise. -/
theorem step_eq (s : State) :
    step s = match nextInstr s with
      | some i => exec i s.pop
      | none => otherStep s := by
  have h := fetch_decodes s
  unfold step
  cases hf : fetchBytes s with
  | none =>
    rw [hf] at h
    cases hn : nextInstr s with
    | none => rfl
    | some i => simp [hn] at h
  | some x =>
    rw [hf] at h
    cases hn : nextInstr s with
    | none => simp [hn] at h
    | some i =>
      simp only [hn, Option.map_some, Option.some.injEq] at h
      simp [h]

theorem step_of_instr {s : State} {i : Instr} (h : nextInstr s = some i) : step s = exec i s.pop := by
  rw [step_eq, h]

theorem step_of_none {s : State} (h : nextInstr s = none) : step s = otherStep s := by
  rw [step_eq, h]

/-- Everything a step that answers a next state can be. -/
theorem step_next_cases {s t : State} (h : step s = .next t) :
    (∃ i, nextInstr s = some i ∧ exec i s.pop = .next t) ∨
      (nextInstr s = none ∧ otherMove s.nextMove s.pop = .next t) := by
  cases hn : nextInstr s with
  | none => exact .inr ⟨rfl, by rw [step_of_none hn] at h; exact h⟩
  | some i => exact .inl ⟨i, rfl, by rw [step_of_instr hn] at h; exact h⟩

theorem HostReg.width_le (r : HostReg) : r.width ≤ 32 := by
  cases r <;> simp [HostReg.width]

theorem hostView_of_idle {s : State} (r : HostReg) (h : s.busy = false) : hostView r s = regValue r s := by
  simp [hostView, h]

/-- Everything a register read of the host can do: the value the spec gives, or a free value of the register's width. -/
theorem hostRead_cases (r : HostReg) (s : State) :
    (∃ v, hostView r s = some v ∧ hostRead r s = { s with hostData := v }) ∨
      (hostView r s = none ∧ ∃ v : Word, v.toNat < 2 ^ r.width ∧
        hostRead r s = { s with hostData := v, draws := s.draws + 1 }) := by
  unfold hostRead
  cases h : hostView r s with
  | some v => exact .inl ⟨v, rfl, rfl⟩
  | none =>
    refine .inr ⟨rfl, _, ?_, rfl⟩
    rw [BitVec.toNat_ofNat]
    exact lt_of_le_of_lt (Nat.mod_le _ _) (Nat.mod_lt _ (Nat.two_pow_pos _))

/-- A write to `CMD` while the block is not busy: the next instruction is the command of its low four bits (R110). -/
theorem nextInstr_commandWrite {s : State} {v : Word} (hm : s.nextMove = .hostWrite .cmd v) (hb : s.busy = false) :
    nextInstr s = some (decodeOpcode (v.setWidth 4)) := by
  simp [nextInstr, hm, hb]

/-- A wire word that answers a next state runs in its phase. -/
theorem inPhase_next {ok : Bool} {m : String} {t u : State} (h : inPhase ok m t = .next u) : ok = true ∧ t = u := by
  unfold inPhase at h
  split at h
  · cases h
    exact ⟨‹_›, rfl⟩
  · cases h

theorem inPhase_true {m : String} {t : State} : inPhase true m t = .next t := rfl

end Sys2Proof.Machine
end

