-- ==== Sys2Proof/Laws/Exec.lean ====
section
/-! SUPPORT. What an instruction in its place does, once for all of them: the delay of a polling loop, or a transfer of
its word followed by what its response does. With it the response comparisons of the phases as facts about bytes, and
what an incomplete read meets. -/

namespace Sys2Proof.Machine

/-! ### Responses as bytes -/

theorem low_append (c0 c1 : Byte) : (c0 ++ c1 : Half).setWidth 8 = c1 := by
  apply BitVec.eq_of_getLsbD_eq
  intro i hi
  simp only [BitVec.getLsbD_setWidth, BitVec.getLsbD_append]
  simp [hi]

theorem high_append (c0 c1 : Byte) : (c0 ++ c1 : Half).extractLsb' 8 8 = c0 := by
  apply BitVec.eq_of_getLsbD_eq
  intro i hi
  simp only [BitVec.getLsbD_extractLsb', BitVec.getLsbD_append]
  simp [hi]

theorem append_inj (a b c d : Byte) : (a ++ b : Half) = c ++ d ↔ a = c ∧ b = d := by
  constructor
  · intro h
    exact ⟨by rw [← high_append a b, h, high_append], by rw [← low_append a b, h, low_append]⟩
  · rintro ⟨rfl, rfl⟩
    rfl

theorem and_high (c0 c1 : Byte) : (c0 ++ c1 : Half) &&& 0xFF00#16 = c0 ++ 0#8 := by
  have h : c0 &&& 255#8 = c0 := BitVec.and_allOnes
  rw [show (0xFF00#16 : Half) = 0xFF#8 ++ 0#8 from rfl, BitVec.and_append, h, BitVec.and_zero]

theorem and_low (c0 c1 : Byte) : (c0 ++ c1 : Half) &&& 0x00FF#16 = 0#8 ++ c1 := by
  have h : c1 &&& 255#8 = c1 := BitVec.and_allOnes
  rw [show (0x00FF#16 : Half) = 0#8 ++ 0xFF#8 from rfl, BitVec.and_append, h, BitVec.and_zero]

/-- The whole response is compared. -/
theorem matches_full (r e : Half) : responseMatches r e 0xFFFF#16 = decide (r = e) := by
  have h : ∀ x : Half, x &&& 0xFFFF#16 = x := fun _ => BitVec.and_allOnes
  simp only [responseMatches, h]
  rfl

/-- Phases 6, 7 and 9: only the high byte is compared. -/
theorem matches_high (c0 c1 : Byte) : responseMatches (c0 ++ c1) 0x7300#16 0xFF00#16 = decide (c0 = 0x73#8) := by
  simp only [responseMatches, and_high, show (0x7300#16 &&& 0xFF00#16 : Half) = 0x73#8 ++ 0#8 from rfl, beq_eq_decide,
    append_inj, and_true]

/-- Phase 11: only the low byte is compared. -/
theorem matches_low (c0 c1 : Byte) : responseMatches (c0 ++ c1) 0x0075#16 0x00FF#16 = decide (c1 = 0x75#8) := by
  simp only [responseMatches, and_low, show (0x0075#16 &&& 0x00FF#16 : Half) = 0#8 ++ 0x75#8 from rfl, beq_eq_decide,
    append_inj, true_and]

/-- The expected header response as a number. -/
theorem headerResponse_eq (i : BitVec 7) (h : i.toNat < 96) :
    headerResponse i = BitVec.ofNat 16 ((96 - i.toNat) * 256 + 2) := by
  revert i
  decide

/-! ### Incomplete reads -/

theorem rxSplit_bytes (got : List Byte) (l : List RxItem) :
    rxSplit (got.map .byte ++ l) = (got ++ (rxSplit l).1, (rxSplit l).2) := by
  induction got with
  | nil => simp
  | cons b got ih => simp [rxSplit, ih]

/-- The delivered bytes and what follows them make up the receive stream. -/
theorem rxSplit_append (l : List RxItem) : (rxSplit l).1.map .byte ++ (rxSplit l).2 = l := by
  induction l with
  | nil => rfl
  | cons x l ih => cases x <;> simp [rxSplit, ih]

/-- Fewer than four bytes at the front: the read meets what follows them. -/
theorem linkRead_short {got : List Byte} {l : List RxItem} (h : got.length < 4) (hl : (rxSplit l).1 = []) :
    linkRead (got.map .byte ++ l) =
      match got, (rxSplit l).2 with
      | got, .failure :: rest => .failed got rest
      | got, .closed :: rest => .ended got (.closed :: rest)
      | _, _ => .waiting := by
  have e : rxSplit (got.map .byte ++ l) = (got, (rxSplit l).2) := by rw [rxSplit_bytes, hl, List.append_nil]
  unfold linkRead
  split
  next heq =>
    rw [heq] at e
    have := congrArg (fun x => x.1.length) e
    simp only [rxSplit, List.length_cons] at this
    omega
  next =>
    rw [e]
    cases (rxSplit l).2 with
    | nil => rfl
    | cons x rest => cases x <;> rfl

theorem linkRead_failure {got : List Byte} {rest : List RxItem} (h : got.length < 4) :
    linkRead (got.map .byte ++ .failure :: rest) = .failed got rest :=
  linkRead_short h rfl

theorem linkRead_closed {got : List Byte} {rest : List RxItem} (h : got.length < 4) :
    linkRead (got.map .byte ++ .closed :: rest) = .ended got (.closed :: rest) :=
  linkRead_short h rfl

theorem linkRead_open {got : List Byte} (h : got.length < 4) : linkRead (got.map .byte) = .waiting := by
  rw [← List.append_nil (got.map RxItem.byte)]
  exact linkRead_short h rfl

theorem linkRead_eq_failed {rx : List RxItem} {got : List Byte} {rest : List RxItem}
    (h : linkRead rx = .failed got rest) : rx = got.map .byte ++ .failure :: rest := by
  unfold linkRead at h
  split at h
  · cases h
  · have e := rxSplit_append rx
    split at h <;> cases h
    next e2 => rw [← e, e2]

theorem linkRead_eq_ended {rx : List RxItem} {got : List Byte} {rest : List RxItem}
    (h : linkRead rx = .ended got rest) : rx = got.map .byte ++ rest := by
  unfold linkRead at h
  split at h
  · cases h
  · have e := rxSplit_append rx
    split at h <;> cases h
    next e2 => rw [← e, e2]

/-! ### Instructions in their place -/

/-- The word an instruction in its place sends. -/
def sentWord (i : Instr) (s : State) : Word :=
  match i with
  | .xfer | .xfer32 => s.opa
  | .xfer16 | .sendd | .sendu => zext16 s.opaHalf
  | .nop | .crcNew | .crcUpdate | .crcSum16 | .ciphNew | .ciphEnc | .romBuild | .delay | .reservedD | .reservedE
  | .upload
  | .wPoll | .wPr1 | .wHdr _ | .wHdrend | .wPr2 | .wPal | .wHs _ | .wLen _ | .wData _ | .wCrcreq | .wCrcgo
  | .wCrc _ => i.word

/-- The delay of a polling instruction. -/
def pollDelay (i : Instr) (s : State) : Option Word :=
  match i with
  | .sendu => some s.opd
  | .wPoll | .wCrcreq => some Config.delayUs
  | .wPal => some 0#32
  | .nop | .crcNew | .crcUpdate | .crcSum16 | .ciphNew | .ciphEnc | .romBuild | .delay | .reservedD | .reservedE
  | .upload | .xfer | .xfer16 | .xfer32 | .sendd | .wPr1 | .wHdr _ | .wHdrend | .wPr2 | .wHs _ | .wLen _ | .wData _
  | .wCrcgo | .wCrc _ => none

/-- A demanded response: `k` goes on if it matches. -/
def demand (w expected mask : Half) (k : Half → State → State) (r : Half) (t : State) : State :=
  if responseMatches r expected mask then k r t else raise (.unexpected w expected mask r) t

/-- A polled response: `k` goes on if it matches, else another attempt follows. -/
def poll (expected mask : Half) (delay : Word) (k : Half → State → State) (r : Half) (t : State) : State :=
  if responseMatches r expected mask then k r t else if delay = 0#32 then t else { t with wait := true }

/-- What the response does to the state after the read half. -/
def onResponse (i : Instr) (s : State) : Half → State → State :=
  match i with
  | .xfer | .xfer16 => unitResult
  | .xfer32 => fun _ t => unitEnd t
  | .sendd => demand s.opaHalf s.opb s.opc unitResult
  | .sendu => poll s.opb s.opc s.opd unitResult
  | .wPoll => fun r t => if t.phase = .discover then discoverResponse r t else stabilizeResponse r t
  | .wPr1 => demand 0x6102#16 0x7202#16 0xFFFF#16 fun _ t => { t with hidx := 0#7, phase := .headers }
  | .wHdr h => demand h (headerResponse s.hidx) 0xFFFF#16 fun _ t => { t with hidx := t.hidx + 1#7 }
  | .wHdrend => demand 0x6200#16 0x0002#16 0xFFFF#16 fun _ t => { t with phase := .pr2 }
  | .wPr2 => demand 0x6202#16 0x7202#16 0xFFFF#16 fun _ t => { t with phase := .palette }
  | .wPal => poll 0x7300#16 0xFF00#16 0#32 recordSeed
  | .wHs b => demand (handshakeWord b) 0x7300#16 0xFF00#16 fun _ t => { t with phase := .fixedDelay }
  | .wLen n => demand n 0x7300#16 0xFF00#16 startMain
  | .wData _ => fun _ t => dataSent t
  | .wCrcreq => poll 0x0075#16 0x00FF#16 Config.delayUs fun _ t => { t with sub := true }
  | .wCrcgo => demand 0x0066#16 0x0075#16 0x00FF#16 fun _ t => sealCrc t
  | .wCrc c => demand c c 0xFFFF#16 fun _ t => uploadDone t
  | .nop | .crcNew | .crcUpdate | .crcSum16 | .ciphNew | .ciphEnc | .romBuild | .delay | .reservedD | .reservedE
  | .upload => fun _ t => t

/-- The state a transfer starts from: the cipher advances before the write half of a data word. -/
def beforeTransfer (i : Instr) (s : State) : State :=
  match i with
  | .wData _ => if s.xhalf then s else cipherAdvance s
  | .nop | .crcNew | .crcUpdate | .crcSum16 | .ciphNew | .ciphEnc | .romBuild | .delay | .reservedD | .reservedE
  | .upload | .xfer | .xfer16 | .xfer32 | .sendd | .sendu | .wPoll | .wPr1 | .wHdr _ | .wHdrend | .wPr2 | .wPal | .wHs _
  | .wLen _ | .wCrcreq | .wCrcgo | .wCrc _ => s

/-- Everything `beforeTransfer` can do. -/
theorem beforeTransfer_cases (i : Instr) (s : State) :
    (beforeTransfer i s = s ∧ (s.xhalf = true ∨ ∀ d, i ≠ .wData d)) ∨
      (beforeTransfer i s = cipherAdvance s ∧ s.xhalf = false ∧ ∃ d, i = .wData d) := by
  cases i
  case wData d =>
    cases h : s.xhalf
    · exact .inr ⟨by simp [beforeTransfer, h], rfl, d, rfl⟩
    · exact .inl ⟨by simp [beforeTransfer, h], .inl rfl⟩
  all_goals exact .inl ⟨rfl, .inr fun _ h => by cases h⟩

/-- An instruction in its place, with a delay pending in its loop: the delay ends. -/
theorem exec_inPlace_delay {i : Instr} {s : State} {d : Word} (h : inPlace i s = true) (hd : pollDelay i s = some d)
    (hw : s.wait = true) : exec i s = .next (delayEnds d s) := by
  cases i <;> simp [pollDelay] at hd <;> subst hd <;> simp [inPlace] at h
  case sendu => simp [exec, execSendu, unitCommand_running h.1 h.2, sendUntil, hw]
  case wPoll => rcases h with h | h <;> simp [exec, execWPoll, inPhase, h, hw]
  case wPal => simp [exec, execWPal, inPhase, h, sendUntil, hw]
  case wCrcreq => simp [exec, execWCrcreq, inPhase, h, sendUntil, hw]

/-- An instruction in its place otherwise: the next half of its transfer. -/
theorem exec_inPlace_transfer {i : Instr} {s : State} (h : inPlace i s = true)
    (hw : pollDelay i s = none ∨ s.wait = false) :
    exec i s = .next (transfer (sentWord i s) (onResponse i s) (beforeTransfer i s)) := by
  cases i <;> simp [inPlace] at h <;> simp [pollDelay] at hw
  case xfer => simp only [exec, execXfer, unitCommand_running h.1 h.2]; rfl
  case xfer16 => simp only [exec, execXfer16, unitCommand_running h.1 h.2]; rfl
  case xfer32 => simp only [exec, execXfer32, unitCommand_running h.1 h.2]; rfl
  case sendd => simp only [exec, execSendd, unitCommand_running h.1 h.2]; rfl
  case sendu =>
    simp only [exec, execSendu, unitCommand_running h.1 h.2, sendUntil, hw, Bool.false_eq_true, if_false]
    rfl
  case wPoll =>
    rcases h with h | h <;> simp only [exec, execWPoll, inPhase, h, hw] <;> rfl
  case wPr1 => simp only [exec, execWPr1, inPhase, h]; rfl
  case wHdr => simp only [exec, execWHdr, inPhase, h]; rfl
  case wHdrend => simp only [exec, execWHdrend, inPhase, h]; rfl
  case wPr2 => simp only [exec, execWPr2, inPhase, h]; rfl
  case wPal => simp only [exec, execWPal, inPhase, h, sendUntil, hw]; rfl
  case wHs => simp only [exec, execWHs, inPhase, h]; rfl
  case wLen => simp only [exec, execWLen, inPhase, h]; rfl
  case wData => simp only [exec, execWData, inPhase, h]; rfl
  case wCrcreq => simp only [exec, execWCrcreq, inPhase, h, sendUntil, hw]; rfl
  case wCrcgo => simp only [exec, execWCrcgo, inPhase, h]; rfl
  case wCrc => simp only [exec, execWCrc, inPhase, h]; rfl

/-- A wire word out of its place is refused by name. -/
theorem exec_wire_outOfPlace {i : Instr} {s : State} (hi : i.opcode? = none) (h : inPlace i s = false) :
    ∃ m : String, exec i s = .refused (.wireOutOfContext m) := by
  cases i <;> simp [Instr.opcode?] at hi <;> unfold inPlace at h
  case wPoll => exact ⟨"W.POLL", by simp only [exec, execWPoll, inPhase, h]; rfl⟩
  case wPr1 => exact ⟨"W.PR1", by simp only [exec, execWPr1, inPhase, h]; rfl⟩
  case wHdr => exact ⟨"W.HDR", by simp only [exec, execWHdr, inPhase, h]; rfl⟩
  case wHdrend => exact ⟨"W.HDREND", by simp only [exec, execWHdrend, inPhase, h]; rfl⟩
  case wPr2 => exact ⟨"W.PR2", by simp only [exec, execWPr2, inPhase, h]; rfl⟩
  case wPal => exact ⟨"W.PAL", by simp only [exec, execWPal, inPhase, h]; rfl⟩
  case wHs => exact ⟨"W.HS", by simp only [exec, execWHs, inPhase, h]; rfl⟩
  case wLen => exact ⟨"W.LEN", by simp only [exec, execWLen, inPhase, h]; rfl⟩
  case wData => exact ⟨"W.DATA", by simp only [exec, execWData, inPhase, h]; rfl⟩
  case wCrcreq => exact ⟨"W.CRCREQ", by simp only [exec, execWCrcreq, inPhase, h]; rfl⟩
  case wCrcgo => exact ⟨"W.CRCGO", by simp only [exec, execWCrcgo, inPhase, h]; rfl⟩
  case wCrc => exact ⟨"W.CRC", by simp only [exec, execWCrc, inPhase, h]; rfl⟩

/-- What an accepted command leaves (R204). -/
def accepted (i : Instr) (s : State) : State :=
  match i with
  | .crcNew => { accept 0x1#4 s with crc := Config.crcInit }
  | .crcUpdate => { accept 0x2#4 s with crc := crcByte s.crc s.opaByte }
  | .crcSum16 => { accept 0x3#4 s with res := zext16 s.crc }
  | .ciphNew => cipherStart s.opa (accept 0x4#4 s)
  | .ciphEnc => { cipherAdvance (accept 0x5#4 s) with res := cipherOut s.lcg s.pos s.opa }
  | .romBuild => buildThen id (accept 0x6#4 s)
  | .xfer => { accept 0x7#4 s with phase := .unit }
  | .xfer16 => { accept 0x8#4 s with phase := .unit }
  | .xfer32 => { accept 0x9#4 s with phase := .unit }
  | .sendd => { accept 0xA#4 s with phase := .unit }
  | .sendu => { accept 0xB#4 s with phase := .unit }
  | .delay => { accept 0xC#4 s with phase := .unit }
  | .reservedD | .reservedE => refuse s
  | .upload => buildThen startPhases (accept 0xF#4 s)
  | .nop | .wPoll | .wPr1 | .wHdr _ | .wHdrend | .wPr2 | .wPal | .wHs _ | .wLen _ | .wData _ | .wCrcreq | .wCrcgo
  | .wCrc _ => accept 0x0#4 s

/-- A command while the block is not busy. -/
theorem exec_command_idle {i : Instr} {s : State} (hi : i.opcode?.isSome = true) (h : s.busy = false) :
    exec i s = .next (accepted i s) := by
  cases i <;> simp [Instr.opcode?] at hi <;>
    simp only [exec, execNop, execCrcNew, execCrcUpdate, execCrcSum16, execCiphNew, execCiphEnc, execRomBuild, execXfer,
      execXfer16, execXfer32, execSendd, execSendu, execDelay, execReservedD, execReservedE, execUpload,
      unitAtomic_idle h, unitCommand_idle h] <;> rfl

/-- A command while the block is busy with something else is refused. -/
theorem exec_command_busy {i : Instr} {s : State} (hi : i.opcode?.isSome = true) (h : s.busy = true)
    (hp : inPlace i s = false) (hd : ¬(i = .delay ∧ s.phase = .unit ∧ s.cmd = 0xC#4)) : exec i s = .next (refuse s) := by
  have hb := h
  simp only [State.busy] at hb
  cases i <;> simp [Instr.opcode?] at hi <;> simp [inPlace] at hp <;>
    simp only [exec, execNop, execCrcNew, execCrcUpdate, execCrcSum16, execCiphNew, execCiphEnc, execRomBuild, execXfer,
      execXfer16, execXfer32, execSendd, execSendu, execDelay, execReservedD, execReservedE, execUpload,
      unitAtomic_busy h, unitCommand, h, if_true]
  case delay => rw [if_neg (by simpa using hd)]
  all_goals rw [if_neg (by simpa using hp)]

/-- The delay of DELAY ends, and the command with it. -/
theorem exec_delay_running {s : State} (hp : s.phase = .unit) (hc : s.cmd = 0xC#4) :
    exec .delay s = .next (unitEnd (delayEnds s.opd s)) := by
  simp only [exec, execDelay, unitCommand_running hp hc]

/-- Everything an instruction that answers a next state can be. -/
theorem exec_next_cases {i : Instr} {s t : State} (h : exec i s = .next t) :
    (i.opcode?.isSome = true ∧ s.busy = false ∧ t = accepted i s) ∨
    (i.opcode?.isSome = true ∧ s.busy = true ∧ t = refuse s) ∨
    (i = .delay ∧ s.phase = .unit ∧ s.cmd = 0xC#4 ∧ t = unitEnd (delayEnds s.opd s)) ∨
    (∃ d, inPlace i s = true ∧ pollDelay i s = some d ∧ s.wait = true ∧ t = delayEnds d s) ∨
    (inPlace i s = true ∧ (pollDelay i s = none ∨ s.wait = false) ∧
      t = transfer (sentWord i s) (onResponse i s) (beforeTransfer i s)) := by
  cases hp : inPlace i s with
  | true =>
    cases hd : pollDelay i s with
    | none =>
      rw [exec_inPlace_transfer hp (.inl hd)] at h
      cases h
      exact .inr (.inr (.inr (.inr ⟨rfl, .inl rfl, rfl⟩)))
    | some d =>
      cases hw : s.wait with
      | true =>
        rw [exec_inPlace_delay hp hd hw] at h
        cases h
        exact .inr (.inr (.inr (.inl ⟨d, rfl, rfl, rfl, rfl⟩)))
      | false =>
        rw [exec_inPlace_transfer hp (.inr hw)] at h
        cases h
        exact .inr (.inr (.inr (.inr ⟨rfl, .inr rfl, rfl⟩)))
  | false =>
    cases ho : i.opcode? with
    | none =>
      obtain ⟨m, hm⟩ := exec_wire_outOfPlace ho hp
      rw [hm] at h
      cases h
    | some op =>
      have hi : i.opcode?.isSome = true := by rw [ho]; rfl
      cases hb : s.busy with
      | false =>
        rw [exec_command_idle hi hb] at h
        cases h
        exact .inl ⟨rfl, rfl, rfl⟩
      | true =>
        by_cases hd : i = .delay ∧ s.phase = .unit ∧ s.cmd = 0xC#4
        · obtain ⟨rfl, hu, hc⟩ := hd
          rw [exec_delay_running hu hc] at h
          cases h
          exact .inr (.inr (.inl ⟨rfl, hu, hc, rfl⟩))
        · rw [exec_command_busy hi hb hp hd] at h
          cases h
          exact .inr (.inl ⟨rfl, rfl, rfl⟩)

end Sys2Proof.Machine
end

