-- ==== Sys2Proof/Laws/Memory.lean ====
section
/-! SUPPORT. The image memory: read after write, and every write keeps the canonical form. -/

namespace Sys2Proof.Machine

@[simp] theorem Memory.read_nil (a : Nat) : Memory.read [] a = Memory.default := rfl

@[simp] theorem Memory.read_cons (k : Nat) (v : Byte) (m : Memory) (a : Nat) :
    Memory.read ((k, v) :: m) a = if k = a then v else Memory.read m a := rfl

theorem Memory.wfFrom_cons (lo k : Nat) (v : Byte) (m : Memory) :
    Memory.wfFrom lo ((k, v) :: m) = true ↔ lo ≤ k ∧ v ≠ Memory.default ∧ Memory.wfFrom (k + 1) m = true := by
  simp [Memory.wfFrom, and_assoc]

theorem Memory.wfFrom_mono {lo lo' : Nat} {m : Memory} (h : lo' ≤ lo) (hm : Memory.wfFrom lo m = true) :
    Memory.wfFrom lo' m = true := by
  cases m with
  | nil => rfl
  | cons c m =>
    rw [Memory.wfFrom_cons] at hm ⊢
    exact ⟨le_trans h hm.1, hm.2⟩

/-- Below its lower bound a canonical memory lists nothing. -/
theorem Memory.read_below {lo : Nat} {m : Memory} (hm : Memory.wfFrom lo m = true) {a : Nat} (ha : a < lo) :
    Memory.read m a = Memory.default := by
  induction m generalizing lo with
  | nil => rfl
  | cons c m ih =>
    obtain ⟨k, v⟩ := c
    rw [Memory.wfFrom_cons] at hm
    rw [Memory.read_cons, if_neg (by omega)]
    exact ih hm.2.2 (by omega)

/-- A read after a write of the same byte gives the byte written. -/
theorem Memory.read_write_same {lo : Nat} {m : Memory} (hm : Memory.wfFrom lo m = true) (a : Nat) (b : Byte) :
    Memory.read (Memory.write m a b) a = b := by
  induction m generalizing lo with
  | nil =>
    by_cases hb : b = Memory.default <;> simp [Memory.write, hb]
  | cons c m ih =>
    obtain ⟨k, v⟩ := c
    rw [Memory.wfFrom_cons] at hm
    by_cases h1 : a < k
    · by_cases hb : b = Memory.default
      · have hr := Memory.read_below hm.2.2 (show a < k + 1 by omega)
        simp [Memory.write, h1, hb, hr, show k ≠ a by omega]
      · simp [Memory.write, h1, hb]
    · by_cases h2 : a = k
      · by_cases hb : b = Memory.default
        · subst h2
          simpa [Memory.write, hb] using Memory.read_below hm.2.2 (Nat.lt_succ_self a)
        · simp [Memory.write, h2, hb]
      · simp [Memory.write, h1, h2, show k ≠ a by omega, ih hm.2.2]

/-- A write leaves every other byte alone. -/
theorem Memory.read_write_other {lo : Nat} {m : Memory} (hm : Memory.wfFrom lo m = true) {a a' : Nat} (b : Byte)
    (h : a' ≠ a) : Memory.read (Memory.write m a b) a' = Memory.read m a' := by
  induction m generalizing lo with
  | nil =>
    by_cases hb : b = Memory.default <;> simp [Memory.write, hb, Ne.symm h]
  | cons c m ih =>
    obtain ⟨k, v⟩ := c
    rw [Memory.wfFrom_cons] at hm
    by_cases h1 : a < k
    · by_cases hb : b = Memory.default <;> simp [Memory.write, h1, hb, Ne.symm h]
    · by_cases h2 : a = k
      · subst h2
        by_cases hb : b = Memory.default <;> simp [Memory.write, hb, Ne.symm h]
      · simp [Memory.write, h1, h2, ih hm.2.2]

theorem Memory.wfFrom_write {lo : Nat} {m : Memory} (hm : Memory.wfFrom lo m = true) {a : Nat} (ha : lo ≤ a)
    (b : Byte) : Memory.wfFrom lo (Memory.write m a b) = true := by
  induction m generalizing lo with
  | nil =>
    by_cases hb : b = Memory.default <;> simp [Memory.write, Memory.wfFrom, hb, ha]
  | cons c m ih =>
    obtain ⟨k, v⟩ := c
    have hm' := (Memory.wfFrom_cons lo k v m).1 hm
    by_cases h1 : a < k
    · by_cases hb : b = Memory.default
      · simpa [Memory.write, h1, hb] using hm
      · simp only [Memory.write, h1, hb, if_true, if_false, Memory.wfFrom_cons]
        exact ⟨ha, hb, by omega, hm'.2⟩
    · by_cases h2 : a = k
      · by_cases hb : b = Memory.default
        · simp only [Memory.write, h2, hb, lt_irrefl, if_true, if_false]
          exact Memory.wfFrom_mono (by omega) hm'.2.2
        · simp only [Memory.write, h2, hb, lt_irrefl, if_true, if_false, Memory.wfFrom_cons]
          exact ⟨hm'.1, hb, hm'.2.2⟩
      · simp only [Memory.write, h1, h2, if_false, Memory.wfFrom_cons]
        exact ⟨hm'.1, hm'.2.1, ih hm'.2.2 (by omega)⟩

/-- Every write keeps the canonical form. -/
theorem Memory.wf_write {m : Memory} (hm : Memory.wf m = true) (a : Nat) (b : Byte) :
    Memory.wf (Memory.write m a b) = true :=
  Memory.wfFrom_write hm (Nat.zero_le a) b

/-- Memories in canonical form that read alike everywhere are equal. -/
theorem Memory.ext_of_read {lo : Nat} {m m' : Memory} (hm : Memory.wfFrom lo m = true)
    (hm' : Memory.wfFrom lo m' = true) (h : ∀ a, Memory.read m a = Memory.read m' a) : m = m' := by
  induction m generalizing lo m' with
  | nil =>
    cases m' with
    | nil => rfl
    | cons c m' =>
      obtain ⟨k, v⟩ := c
      rw [Memory.wfFrom_cons] at hm'
      exact absurd (by simpa using (h k).symm) hm'.2.1
  | cons c m ih =>
    obtain ⟨k, v⟩ := c
    have hc := (Memory.wfFrom_cons lo k v m).1 hm
    cases m' with
    | nil => exact absurd (by simpa using h k) hc.2.1
    | cons c' m' =>
      obtain ⟨k', v'⟩ := c'
      have hc' := (Memory.wfFrom_cons lo k' v' m').1 hm'
      have hk : k = k' := by
        by_contra hne
        rcases Nat.lt_or_gt_of_ne hne with hlt | hlt
        · have hr := Memory.read_below (m := m') hc'.2.2 (show k < k' + 1 by omega)
          have := h k
          simp [Ne.symm hne, hr] at this
          exact hc.2.1 this
        · have hr := Memory.read_below (m := m) hc.2.2 (show k' < k + 1 by omega)
          have := h k'
          simp [hne, hr] at this
          exact hc'.2.1 this.symm
      subst hk
      have hv : v = v' := by simpa using h k
      subst hv
      congr 1
      apply ih hc.2.2 hc'.2.2
      intro a
      by_cases ha : k = a
      · subst ha
        rw [Memory.read_below hc.2.2 (Nat.lt_succ_self k), Memory.read_below hc'.2.2 (Nat.lt_succ_self k)]
      · simpa [ha] using h a

/-- The image memory of the reset state is in canonical form. -/
theorem Memory.wf_reset : Memory.wf State.reset.img = true := rfl

end Sys2Proof.Machine
end

