-- ==== Sys2Proof/Laws/PerInstr.lean ====
section
/-! SUPPORT. The family `RowMatch`: the encoder's word of every instruction has the bits that the instruction's row of
spec/opcode_table.json fixes (its mask and match), whatever its operand. -/

namespace Sys2Proof.Laws.RowMatch

/-- The mask of the instruction's row of the opcode table: the bits the row fixes. -/
def rowMask : Instr → Word
  | .nop => 0xF#32
  | .crcNew => 0xF#32
  | .crcUpdate => 0xF#32
  | .crcSum16 => 0xF#32
  | .ciphNew => 0xF#32
  | .ciphEnc => 0xF#32
  | .romBuild => 0xF#32
  | .xfer => 0xF#32
  | .xfer16 => 0xF#32
  | .xfer32 => 0xF#32
  | .sendd => 0xF#32
  | .sendu => 0xF#32
  | .delay => 0xF#32
  | .reservedD => 0xF#32
  | .reservedE => 0xF#32
  | .upload => 0xF#32
  | .wPoll => 0xFFFFFFFF#32
  | .wPr1 => 0xFFFFFFFF#32
  | .wHdr _ => 0xFFFF0000#32
  | .wHdrend => 0xFFFFFFFF#32
  | .wPr2 => 0xFFFFFFFF#32
  | .wPal => 0xFFFFFFFF#32
  | .wHs _ => 0xFFFFFF00#32
  | .wLen _ => 0xFFFF0000#32
  | .wData _ => 0x0#32
  | .wCrcreq => 0xFFFFFFFF#32
  | .wCrcgo => 0xFFFFFFFF#32
  | .wCrc _ => 0xFFFF0000#32

/-- The match value of the instruction's row of the opcode table: what the fixed bits are. -/
def rowMatch : Instr → Word
  | .nop => 0x0#32
  | .crcNew => 0x1#32
  | .crcUpdate => 0x2#32
  | .crcSum16 => 0x3#32
  | .ciphNew => 0x4#32
  | .ciphEnc => 0x5#32
  | .romBuild => 0x6#32
  | .xfer => 0x7#32
  | .xfer16 => 0x8#32
  | .xfer32 => 0x9#32
  | .sendd => 0xA#32
  | .sendu => 0xB#32
  | .delay => 0xC#32
  | .reservedD => 0xD#32
  | .reservedE => 0xE#32
  | .upload => 0xF#32
  | .wPoll => 0x6200#32
  | .wPr1 => 0x6102#32
  | .wHdr _ => 0x0#32
  | .wHdrend => 0x6200#32
  | .wPr2 => 0x6202#32
  | .wPal => 0x63D1#32
  | .wHs _ => 0x6400#32
  | .wLen _ => 0x0#32
  | .wData _ => 0x0#32
  | .wCrcreq => 0x65#32
  | .wCrcgo => 0x66#32
  | .wCrc _ => 0x0#32

/-- The word of the instruction has the fixed bits of its row. -/
def Statement (i : Instr) : Prop :=
  i.word &&& rowMask i = rowMatch i

/-- A zero-extended 16-bit word has no bit under the mask of an open `T16` row (30_encoding.md R92). -/
theorem zext16_and_upper (h : Half) : zext16 h &&& 0xFFFF0000#32 = 0x0#32 := by
  rw [show zext16 h = 0#16 ++ h from (BitVec.setWidth_eq_append (by decide)).trans rfl,
    show (0xFFFF0000#32 : Word) = 0xFFFF#16 ++ 0#16 from rfl, BitVec.and_append]
  simp

theorem nop : Statement .nop := rfl
theorem crcNew : Statement .crcNew := rfl
theorem crcUpdate : Statement .crcUpdate := rfl
theorem crcSum16 : Statement .crcSum16 := rfl
theorem ciphNew : Statement .ciphNew := rfl
theorem ciphEnc : Statement .ciphEnc := rfl
theorem romBuild : Statement .romBuild := rfl
theorem xfer : Statement .xfer := rfl
theorem xfer16 : Statement .xfer16 := rfl
theorem xfer32 : Statement .xfer32 := rfl
theorem sendd : Statement .sendd := rfl
theorem sendu : Statement .sendu := rfl
theorem delay : Statement .delay := rfl
theorem reservedD : Statement .reservedD := rfl
theorem reservedE : Statement .reservedE := rfl
theorem upload : Statement .upload := rfl
theorem wPoll : Statement .wPoll := rfl
theorem wPr1 : Statement .wPr1 := rfl
theorem wHdr (h : Half) : Statement (.wHdr h) := zext16_and_upper h
theorem wHdrend : Statement .wHdrend := rfl
theorem wPr2 : Statement .wPr2 := rfl
theorem wPal : Statement .wPal := rfl
theorem wHs (b : Byte) : Statement (.wHs b) := by
  unfold Statement
  revert b
  decide
theorem wLen (n : Half) : Statement (.wLen n) := zext16_and_upper n
theorem wData (d : Word) : Statement (.wData d) := BitVec.and_zero
theorem wCrcreq : Statement .wCrcreq := rfl
theorem wCrcgo : Statement .wCrcgo := rfl
theorem wCrc (c : Half) : Statement (.wCrc c) := zext16_and_upper c

end Sys2Proof.Laws.RowMatch
end

