-- ==== Sys2Proof/Laws/Rom.lean ====
section
/-! SUPPORT. The CRC loop as an iterate, and the size check as bounds on the length (42_rom_container.md R177). -/

namespace Sys2Proof.Machine

theorem crcShifts_eq_iterate (n : Nat) (c : Half) : crcShifts n c = crcShift^[n] c := by
  induction n generalizing c with
  | zero => rfl
  | succ n ih => exact ih _

theorem crcBytes_append (c : Half) (a b : List Byte) : crcBytes c (a ++ b) = crcBytes (crcBytes c a) b :=
  List.foldl_append

theorem paddedLength_eq (len : Word) : paddedLength len = (len.toNat + 15) / 16 * 16 := rfl

theorem payloadCount_eq (len : Word) : payloadCount len = ((len.toNat + 15) / 16 * 16 - 192) / 4 := rfl

theorem sizeError_def (len : Word) :
    sizeError len =
      if (len.toNat + 15) / 16 * 16 > 262144 then some .tooLarge
      else if (len.toNat + 15) / 16 * 16 < 448 then some .tooSmall else none := rfl

theorem sizeError_small {len : Word} (h : len.toNat ≤ 432) : sizeError len = some .tooSmall := by
  rw [sizeError_def, if_neg (by omega), if_pos (by omega)]

theorem sizeError_large {len : Word} (h : 262145 ≤ len.toNat) : sizeError len = some .tooLarge := by
  rw [sizeError_def, if_pos (by omega)]

/-- The accepted lengths. -/
theorem sizeError_none_iff (len : Word) : sizeError len = none ↔ 433 ≤ len.toNat ∧ len.toNat ≤ 262144 := by
  rw [sizeError_def]
  split
  · simp only [reduceCtorEq, false_iff]
    omega
  · split
    · simp only [reduceCtorEq, false_iff]
      omega
    · simp only [true_iff]
      omega

end Sys2Proof.Machine
end

