-- ==== Sys2Proof/Tests/Slice0.lean ====
section
/-! SUPPORT. Tests on small states, expected values from spec/95_test_vectors.md or written out from the encodings of
spec/30_encoding.md, and for each statement with hypotheses a witness that meets them. -/

open Sys2Proof Sys2Proof.Machine

namespace Sys2Proof.Tests

/-- The reset state in another phase. -/
def inPh (ph : Phase) : State :=
  { State.reset with phase := ph }

/-- A phase in the read half of a transfer that is answered with these bytes. -/
def answered (ph : Phase) (bytes : List Byte) : State :=
  { State.reset with phase := ph, xhalf := true, rx := bytes.map .byte }

/-- PHASE UNIT under an opcode with `OPA`. -/
def unitAt (op : BitVec 4) (opa : Word) : State :=
  { State.reset with phase := .unit, cmd := op, opa := opa }

/-- A read-out of the next state, if there is one. -/
def out {α : Type} (f : State → α) (o : Host.Outcome State Fault Refusal) : Option α :=
  match o with
  | .next t => some (f t)
  | .fault _ | .refused _ => none

/-- The error record as its four words behind kind and phase. -/
def errWords (s : State) : BitVec 3 × BitVec 4 × Half × Half × Half × Half :=
  (s.err.kind, s.err.phase, s.err.sent, s.err.exp, s.err.mask, s.err.recv)

/-! ### Well-formedness: there is no check that a term could fail (30_encoding.md R107), so none is refused -/

theorem test_everyHandshakeByte_wellFormed : ∀ b : Byte, (Instr.wHs b).wellFormed = true := by decide

/-! ### Decoding: every constructor from a word written out from R96, R111 -/

theorem test_decode_nop : decode .cmd [0b00000000#8] = .ok .nop := rfl
theorem test_decode_crcNew : decode .cmd [0b00000001#8] = .ok .crcNew := rfl
theorem test_decode_crcUpdate : decode .cmd [0b00000010#8] = .ok .crcUpdate := rfl
theorem test_decode_crcSum16 : decode .cmd [0b00000011#8] = .ok .crcSum16 := rfl
theorem test_decode_ciphNew : decode .cmd [0b00000100#8] = .ok .ciphNew := rfl
theorem test_decode_ciphEnc : decode .cmd [0b00000101#8] = .ok .ciphEnc := rfl
theorem test_decode_romBuild : decode .cmd [0b00000110#8] = .ok .romBuild := rfl
theorem test_decode_xfer : decode .cmd [0b00000111#8] = .ok .xfer := rfl
theorem test_decode_xfer16 : decode .cmd [0b00001000#8] = .ok .xfer16 := rfl
theorem test_decode_xfer32 : decode .cmd [0b00001001#8] = .ok .xfer32 := rfl
theorem test_decode_sendd : decode .cmd [0b00001010#8] = .ok .sendd := rfl
theorem test_decode_sendu : decode .cmd [0b00001011#8] = .ok .sendu := rfl
theorem test_decode_delay : decode .cmd [0b00001100#8] = .ok .delay := rfl
theorem test_decode_reservedD : decode .cmd [0b00001101#8] = .ok .reservedD := rfl
theorem test_decode_reservedE : decode .cmd [0b00001110#8] = .ok .reservedE := rfl
theorem test_decode_upload : decode .cmd [0b00001111#8] = .ok .upload := rfl
theorem test_decode_wPoll :
    decode (.wire .poll) [0b00000000#8, 0b00000000#8, 0b01100010#8, 0b00000000#8] = .ok .wPoll := rfl
theorem test_decode_wPr1 :
    decode (.wire .pr1) [0b00000000#8, 0b00000000#8, 0b01100001#8, 0b00000010#8] = .ok .wPr1 := rfl
theorem test_decode_wHdr :
    decode (.wire .hdr) [0b00000000#8, 0b00000000#8, 0b00010010#8, 0b00110100#8] = .ok (.wHdr 0x1234#16) := rfl
theorem test_decode_wHdrend :
    decode (.wire .hdrend) [0b00000000#8, 0b00000000#8, 0b01100010#8, 0b00000000#8] = .ok .wHdrend := rfl
theorem test_decode_wPr2 :
    decode (.wire .pr2) [0b00000000#8, 0b00000000#8, 0b01100010#8, 0b00000010#8] = .ok .wPr2 := rfl
theorem test_decode_wPal :
    decode (.wire .pal) [0b00000000#8, 0b00000000#8, 0b01100011#8, 0b11010001#8] = .ok .wPal := rfl
theorem test_decode_wHs :
    decode (.wire .hs) [0b00000000#8, 0b00000000#8, 0b01100100#8, 0b10111010#8] = .ok (.wHs 0xBA#8) := rfl
theorem test_decode_wLen :
    decode (.wire .len) [0b00000000#8, 0b00000000#8, 0b11111111#8, 0b10011100#8] = .ok (.wLen 0xFF9C#16) := rfl
theorem test_decode_wData :
    decode (.wire .data) [0b01101111#8, 0b11011111#8, 0b00110111#8, 0b11001010#8] = .ok (.wData 0x6FDF37CA#32) := rfl
theorem test_decode_wCrcreq :
    decode (.wire .crcreq) [0b00000000#8, 0b00000000#8, 0b00000000#8, 0b01100101#8] = .ok .wCrcreq := rfl
theorem test_decode_wCrcgo :
    decode (.wire .crcgo) [0b00000000#8, 0b00000000#8, 0b00000000#8, 0b01100110#8] = .ok .wCrcgo := rfl
theorem test_decode_wCrc :
    decode (.wire .crc) [0b00000000#8, 0b00000000#8, 0b01110000#8, 0b00110010#8] = .ok (.wCrc 0x7032#16) := rfl

theorem test_decode_cmd_upperBits : decode .cmd [0xF3#8] = .ok .crcSum16 := rfl
theorem test_decode_wrongLength : decode (.wire .data) [0x00#8, 0x00#8, 0x62#8] = .error .wrongLength := rfl
theorem test_decode_cmd_wrongLength : decode .cmd [] = .error .wrongLength := rfl
theorem test_decode_notTheFixedWord :
    decode (.wire .poll) [0x00#8, 0x00#8, 0x62#8, 0x02#8] = .error (.notTheFixedWord .poll) := rfl
theorem test_decode_upperHalfNotZero :
    decode (.wire .len) [0x00#8, 0x01#8, 0x00#8, 0x0C#8] = .error (.upperHalfNotZero .len) := rfl
theorem test_decode_notTheHandshakeByte :
    decode (.wire .hs) [0x00#8, 0x00#8, 0x65#8, 0xBA#8] = .error .notTheHandshakeByte := rfl
theorem test_encode_handshake : encode (.wHs 0x0F#8) = [0x00#8, 0x00#8, 0x64#8, 0x0F#8] := by decide
theorem test_tableWord_command : decodeTableWord 8 0x0A = some .sendd := rfl
theorem test_tableWord_handshake : decodeTableWord 32 0x6455 = some (.wHs 0x55#8) := rfl
theorem test_tableWord_data : decodeTableWord 32 0x12345678 = some (.wData 0x12345678#32) := rfl

/-! ### CRC unit: V-CRC-2, V-CRC-9, V-CRC-17, V-CRC-22 -/

theorem test_crcNew : out State.crc (exec .crcNew State.reset) = some 0xC387#16 := rfl
theorem test_crcUpdate :
    out State.crc (exec .crcUpdate { State.reset with crc := 0xC387#16, opa := 0x12345631#32 }) = some 0x3F27#16 := by
  decide +kernel
theorem test_crcUpdate_toZero :
    out State.crc (exec .crcUpdate { State.reset with crc := 0x00C3#16, opa := 0xC3#32 }) = some 0x0000#16 := by
  decide +kernel
theorem test_crcSum16 :
    out (fun t => (t.res, t.crc)) (exec .crcSum16 { State.reset with crc := 0xD002#16 })
      = some (0x0000D002#32, 0xD002#16) := rfl
theorem test_crc_check : crcBytes 0xC387#16 [0x31, 0x32, 0x33, 0x34, 0x35, 0x36, 0x37, 0x38, 0x39] = 0xD002#16 := by
  decide +kernel
theorem test_crc_seal : crcBytes 0x7942#16 (sealBytes 0xBA#8 0x5A#8) = 0x7032#16 := by decide +kernel
theorem test_crc_polynomials : (0xC37B#16).reverse = 0xDEC3#16 := by decide

/-! ### Cipher unit: V-CIPH-1, V-CIPH-4, V-CIPH-8 -/

theorem test_ciphNew :
    out (fun t => (t.lcg, t.pos)) (exec .ciphNew { State.reset with opa := 0xFFFFD1D1#32 })
      = some (0xFFFFD1D1#32, 0xFDFFFF40#32) := rfl
theorem test_ciphEnc :
    out (fun t => (t.lcg, t.res, t.pos))
        (exec .ciphEnc { State.reset with lcg := 0xFCAA1CF8#32, pos := 0xFDFFFF34#32, opa := 0x12345678#32 })
      = some (0x76B8DB69#32, 0xDA535D0A#32, 0xFDFFFF30#32) := by decide
theorem test_ciphEnc_wrap :
    out State.pos (exec .ciphEnc { State.reset with pos := 0x00000003#32 }) = some 0xFFFFFFFF#32 := by decide

/-! ### ROM container: V-ROM-3, V-ROM-7, V-ROM-12, V-ROM-13, V-ROM-14 -/

theorem test_romBuild_tooSmall :
    out (fun t => (t.phase, t.err.kind, t.err.sub, t.err.phase)) (exec .romBuild { State.reset with len := 432#32 })
      = some (.error, 1#3, 1#2, 0#4) := by decide
theorem test_romBuild_split :
    out (fun t => (t.h[0], t.h[1], t.p.head?, t.p.length))
        (exec .romBuild
          { State.reset with
            len := 449#32
            img := [(0, 0x34#8), (1, 0x12#8), (0xC0, 0x78#8), (0xC1, 0x56#8), (0xC2, 0x34#8), (0xC3, 0x12#8)] })
      = some (0x1234#16, 0#16, some 0x12345678#32, 68) := by decide +kernel
theorem test_paddedLength_noWrap : paddedLength 0xFFFFFFFF#32 = 4294967296 := by decide
theorem test_sizeError_top : sizeError 262145#32 = some .tooLarge := by decide
theorem test_lengthWord_top : lengthWord 65488#16 = 0xFF9C#16 := by decide

/-! ### Link commands: V-LINK-2 to V-LINK-11 -/

theorem test_nop : out (fun t => (t.phase, t.err, t.refused)) (exec .nop { inPh .error with refused := true })
    = some (.idle, ErrRecord.none, false) := rfl
theorem test_xfer_write :
    out (fun t => (t.xhalf, txStream t)) (exec .xfer (unitAt 0x7#4 0x12345678#32))
      = some (true, [0x12#8, 0x34#8, 0x56#8, 0x78#8]) := by decide
theorem test_xfer_read :
    out (fun t => (t.res, t.phase, t.rx))
        (exec .xfer { answered .unit [0x00#8, 0x01#8, 0xFF#8, 0xFF#8] with cmd := 0x7#4 })
      = some (0x0001#32, .idle, []) := by decide
theorem test_xfer16_write :
    out txStream (exec .xfer16 (unitAt 0x8#4 0xFFFF6102#32)) = some [0x00#8, 0x00#8, 0x61#8, 0x02#8] := by decide
theorem test_xfer16_read :
    out State.res (exec .xfer16 { answered .unit [0x72#8, 0x02#8, 0x00#8, 0x00#8] with cmd := 0x8#4 })
      = some 0x7202#32 := by decide
theorem test_xfer32_write :
    out txStream (exec .xfer32 (unitAt 0x9#4 0x6FDF37CA#32)) = some [0x6F#8, 0xDF#8, 0x37#8, 0xCA#8] := by decide
theorem test_xfer32_read :
    out (fun t => (t.res, t.phase))
        (exec .xfer32 { answered .unit [0xBE#8, 0xEF#8, 0xCA#8, 0xFE#8] with cmd := 0x9#4, res := 5#32 })
      = some (5#32, .idle) := by decide
theorem test_sendd_unexpected :
    out errWords
        (exec .sendd
          { answered .unit [0x72#8, 0x00#8, 0x00#8, 0x00#8] with
            cmd := 0xA#4, opa := 0x6102#32, opb := 0x7202#16, opc := 0xFFFF#16 })
      = some (3#3, 15#4, 0x6102#16, 0x7202#16, 0xFFFF#16, 0x7200#16) := by decide
theorem test_sendd_mask :
    out (fun t => (t.phase, t.res))
        (exec .sendd
          { answered .unit [0x73#8, 0x99#8, 0x12#8, 0x34#8] with
            cmd := 0xA#4, opa := 0x64BA#32, opb := 0x7300#16, opc := 0xFF00#16 })
      = some (.idle, 0x7399#32) := by decide
theorem test_sendu_again :
    out (fun t => (t.phase, t.wait))
        (exec .sendu
          { answered .unit [0x00#8, 0x74#8, 0x00#8, 0x00#8] with
            cmd := 0xB#4, opa := 0x65#32, opb := 0x0075#16, opc := 0x00FF#16, opd := 62500#32 })
      = some (.unit, true) := by decide
theorem test_sendu_match :
    out (fun t => (t.phase, t.res))
        (exec .sendu
          { answered .unit [0x73#8, 0xAB#8, 0x00#8, 0x00#8] with
            cmd := 0xB#4, opa := 0x63D1#32, opb := 0x7300#16, opc := 0xFF00#16 })
      = some (.idle, 0x73AB#32) := by decide
theorem test_delay :
    out (fun t => (t.phase, t.trace)) (exec .delay { unitAt 0xC#4 0#32 with opd := 62500#32 })
      = some (.idle, [.delay 62500#32]) := by decide
theorem test_reservedD : out (fun t => (t.phase, t.refused)) (exec .reservedD State.reset) = some (.idle, true) := rfl
theorem test_reservedE :
    out (fun t => (t.phase, t.refused)) (exec .reservedE (inPh .main)) = some (.main, true) := rfl
theorem test_read_closed :
    out (fun t => (t.phase, t.err.kind, t.err.sub, t.res))
        (exec .xfer { unitAt 0x7#4 0#32 with xhalf := true, rx := [.byte 0x72#8, .byte 0x02#8, .closed] })
      = some (.error, 4#3, 0#2, 0#32) := by decide

/-! ### The sequencer: V-SEQ-1 to V-SEQ-27 -/

theorem test_upload :
    out (fun t => (t.phase, t.nwords)) (exec .upload { State.reset with len := 440#32 })
      = some (.discover, 64#16) := by decide
theorem test_upload_tooLarge :
    out (fun t => (t.phase, t.err.kind, t.err.sub)) (exec .upload { State.reset with len := 262145#32 })
      = some (.error, 1#3, 2#2) := by decide
theorem test_wPoll_discover :
    out (fun t => (t.phase, t.rms, t.wait)) (exec .wPoll (answered .discover [0xFF#8, 0xFF#8, 0xCA#8, 0xFE#8]))
      = some (.discover, true, true) := by decide
theorem test_wPoll_stabilize :
    out (fun t => (t.phase, t.stab))
        (exec .wPoll { answered .stabilize [0x72#8, 0x02#8, 0xCA#8, 0xFE#8] with stab := 14#4 })
      = some (.pr1, 15#4) := by decide
theorem test_wPr1 :
    out errWords (exec .wPr1 (answered .pr1 [0x00#8, 0x00#8, 0x00#8, 0x00#8]))
      = some (3#3, 3#4, 0x6102#16, 0x7202#16, 0xFFFF#16, 0x0000#16) := by decide
theorem test_wHdr :
    out (fun t => (t.phase, t.hidx))
        (exec (.wHdr 0x0A07#16) { answered .headers [0x5F#8, 0x02#8, 0xCA#8, 0xFE#8] with hidx := 1#7 })
      = some (.headers, 2#7) := by decide
theorem test_wHdr_unexpected :
    out errWords (exec (.wHdr 0x403D#16) { answered .headers [0x56#8, 0x03#8, 0x00#8, 0x00#8] with hidx := 10#7 })
      = some (3#3, 4#4, 0x403D#16, 0x5602#16, 0xFFFF#16, 0x5603#16) := by decide
theorem test_wHdrend :
    out State.phase (exec .wHdrend { answered .headers [0x00#8, 0x02#8, 0xCA#8, 0xFE#8] with hidx := 96#7 })
      = some .pr2 := by decide
theorem test_wHdrend_highByte :
    out State.phase (exec .wHdrend { answered .headers [0x01#8, 0x02#8, 0x00#8, 0x00#8] with hidx := 96#7 })
      = some .error := by decide
theorem test_wPr2 :
    out State.phase (exec .wPr2 (answered .pr2 [0x72#8, 0x02#8, 0x00#8, 0x00#8])) = some .palette := by decide
theorem test_wPal :
    out (fun t => (t.phase, t.seed, t.hsb)) (exec .wPal (answered .palette [0x73#8, 0xAB#8, 0xCA#8, 0xFE#8]))
      = some (.handshake, 0xAB#8, 0xBA#8) := by decide
theorem test_wPal_again :
    out (fun t => (t.phase, t.wait, t.xhalf)) (exec .wPal (answered .palette [0x72#8, 0x02#8, 0x00#8, 0x00#8]))
      = some (.palette, false, false) := by decide
theorem test_wHs :
    out errWords (exec (.wHs 0xBA#8) (answered .handshake [0x72#8, 0x00#8, 0x00#8, 0x00#8]))
      = some (3#3, 7#4, 0x64BA#16, 0x7300#16, 0xFF00#16, 0x7200#16) := by decide
theorem test_fixedDelay :
    out (fun t => (t.phase, t.trace)) (step (inPh .fixedDelay)) = some (.length, [.delay 62500#32]) := by decide
theorem test_wLen :
    out (fun t => (t.phase, t.fcb, t.lcg, t.pos))
        (exec (.wLen 0x000C#16) { answered .length [0x73#8, 0x5A#8, 0xCA#8, 0xFE#8] with seed := 0xAB#8 })
      = some (.main, 0x5A#8, 0xFFFFABD1#32, 0xFDFFFF40#32) := by decide
theorem test_wData_write :
    out (fun t => (t.lcg, t.pos, txStream t))
        (step
          { inPh .main with
            nwords := 64#16, p := [0x4A474441#32], lcg := 0xFFFFABD1#32, pos := 0xFDFFFF40#32 })
      = some (0x9B47A3E4#32, 0xFDFFFF3C#32, [0x6F#8, 0xDF#8, 0x37#8, 0xCA#8]) := by decide
theorem test_wData_last :
    out (fun t => (t.phase, t.pidx, t.prog))
        (exec (.wData 0xC038483A#32)
          { answered .main [0xBE#8, 0xEF#8, 0xCA#8, 0xFE#8] with nwords := 64#16, pidx := 63#16, prog := 63#16 })
      = some (.prepCrc, 64#16, 64#16) := by decide
theorem test_wCrcreq :
    out (fun t => (t.phase, t.sub, t.wait)) (exec .wCrcreq (answered .prepCrc [0x00#8, 0x74#8, 0xCA#8, 0xFE#8]))
      = some (.prepCrc, false, true) := by decide
theorem test_wCrcgo :
    out (fun t => (t.phase, t.crc))
        (exec .wCrcgo
          { answered .prepCrc [0x00#8, 0x75#8, 0xCA#8, 0xFE#8] with
            sub := true, crc := 0x7942#16, hsb := 0xBA#8, fcb := 0x5A#8 })
      = some (.sendCrc, 0x7032#16) := by decide +kernel
theorem test_wCrc :
    out State.phase (exec (.wCrc 0x7032#16) (answered .sendCrc [0x70#8, 0x32#8, 0xCA#8, 0xFE#8]))
      = some .done := by decide
theorem test_wCrc_unexpected :
    out errWords (exec (.wCrc 0x7032#16) (answered .sendCrc [0x70#8, 0x33#8, 0x00#8, 0x00#8]))
      = some (3#3, 12#4, 0x7032#16, 0x7032#16, 0xFFFF#16, 0x7033#16) := by decide

/-! ### The host port: V-HOST-1, V-HOST-2, and the register map of R45 -/

theorem test_host_reserved :
    out (fun t => (t.refused, t.phase)) (step { State.reset with inputs := [.hostWrite .cmd 0xD#32] })
      = some (true, .idle) := by decide
theorem test_host_busy :
    out (fun t => (t.refused, t.phase, t.crc))
        (step { inPh .main with crc := 0x7942#16, inputs := [.hostWrite .cmd 0x1#32] })
      = some (true, .main, 0x7942#16) := by decide
/-- R281: an UnexpectedResponse at header word 10 leaves HIDX = 10, which the host may read. -/
theorem test_diagnosis_hidx :
    out State.hostData (step { inPh .error with hidx := 10#7, inputs := [.hostRead .hidx] }) = some 10#32 := rfl
/-- The last entry of `H`, read after an error. -/
theorem test_diagnosis_h :
    out State.hostData (step { inPh .error with h := State.reset.h.set 95 0xABCD#16, inputs := [.hostRead (.h 95)] }) =
      some 0xABCD#32 := by decide
theorem test_hostReg_refused : HostReg.refused.number = some 26 ∧ HostReg.refused.width = 1 := by decide
theorem test_withFetchWord_crcSum16 :
    out State.res (step (State.withFetchWord { State.reset with crc := 0x1234#16 } 4 0x3)) = some 0x1234#32 := by decide
theorem test_withFetchWord_wHs :
    out txStream (step (State.withFetchWord State.reset 32 0x64BA)) = some [0x00#8, 0x00#8, 0x64#8, 0xBA#8] := by decide

/-! ### Witnesses: for each statement with hypotheses, states and operands that meet them -/

theorem zeros_crc_a : crcBytes 0xC387#16 (List.replicate 64 0#8) = 0xB792#16 := by decide +kernel
theorem zeros_crc_b : crcBytes 0xB792#16 (List.replicate 64 0#8) = 0x1E18#16 := by decide +kernel
theorem zeros_crc_c : crcBytes 0x1E18#16 (List.replicate 64 0#8) = 0xC0C0#16 := by decide +kernel
theorem zeros_crc_d : crcBytes 0xC0C0#16 (List.replicate 64 0#8) = 0x5992#16 := by decide +kernel

/-- V-CRC-14. -/
theorem test_zeros_crc : crcBytes 0xC387#16 (List.replicate 256 0#8) = 0x5992#16 := by
  rw [show (256 : Nat) = 64 + (64 + (64 + 64)) from rfl]
  simp only [List.replicate_add, crcBytes_append, zeros_crc_a, zeros_crc_b, zeros_crc_c, zeros_crc_d]

theorem zeros_bytes : payloadBytes (List.replicate 64 0#32) = List.replicate 256 0#8 := by decide +kernel

/-- An upload of 448 zero bytes (PR7) that is about to send its fifth header word. -/
def midUpload : State :=
  { State.reset with
    phase := .headers, hidx := 4#7, stab := 15#4, len := 448#32, plen := 448#19, nwords := 64#16
    p := List.replicate 64 0#32, crc := 0x5992#16 }

/-- The same upload, its sealed CRC on the link and its echo received. -/
def lastEcho : State :=
  { State.reset with
    phase := .sendCrc, xhalf := true, hidx := 96#7, stab := 15#4, sub := true, len := 448#32, plen := 448#19
    nwords := 64#16, pidx := 64#16, prog := 64#16, p := List.replicate 64 0#32, hsb := 0x0F#8, lcg := 0xE18BEE51#32
    pos := 0xFDFFFE40#32, crc := 0x15B5#16
    rx := [.byte 0x15#8, .byte 0xB5#8, .byte 0#8, .byte 0#8] }

theorem midUpload_control : ControlSound midUpload := by
  constructor <;> decide

theorem midUpload_upload : UploadSound midUpload := by
  constructor
  case payloadCrc =>
    intro _ _
    show (0x5992#16 : Half) = crcBytes 0xC387#16 (payloadBytes (List.replicate 64 0#32))
    rw [zeros_bytes, test_zeros_crc]
  case geometry =>
    intro _
    refine ⟨by decide, by decide, by decide, by decide, by decide +kernel⟩
  all_goals intro h; revert h; decide

theorem lastEcho_control : ControlSound lastEcho := by
  constructor <;> decide

theorem lastEcho_upload : UploadSound lastEcho := by
  constructor
  case sealedCrc =>
    intro _
    show (0x15B5#16 : Half) = crcBytes 0xC387#16 (payloadBytes (List.replicate 64 0#32) ++ [0x0F#8, 0#8, 0xFF#8, 0xFF#8])
    rw [zeros_bytes, crcBytes_append, test_zeros_crc]
    decide +kernel
  case geometry =>
    intro _
    refine ⟨by decide, by decide, by decide, by decide, by decide +kernel⟩
  case cipher =>
    intro _
    refine ⟨by decide +kernel, by decide +kernel⟩
  all_goals decide

theorem witness_DecodeOfEncodeIsTheInstruction : (Instr.wData 0xFFFFFFFF#32).wellFormed = true := rfl
theorem witness_DecodedBytesAreTheEncoding :
    decode (.wire .hs) [0x00#8, 0x00#8, 0x64#8, 0xFF#8] = .ok (.wHs 0xFF#8) ∧ decode .cmd [0xFF#8] = .ok .upload := by
  decide
theorem witness_StepRunsTheDecodedInstruction :
    let s : State := { inPh .error with inputs := [.hostWrite .cmd 0x3#32] }
    fetchBytes s = some (.cmd, [0x03#8]) ∧ decode .cmd [0x03#8] = .ok .crcSum16 := by decide
theorem witness_SequencerFetchesTheFrameOfItsPhase :
    (∀ ph : Phase, (inPh ph).nextMove = .turn) ∧ (inPh .headers).hidx.toNat < 96 ∧
      ({ inPh .headers with hidx := 95#7 } : State).hidx.toNat < 96 ∧
      ({ inPh .headers with hidx := 96#7 } : State).hidx = 96#7 ∧
      (let s : State := { inPh .main with nwords := 2#16, pidx := 1#16, p := [5#32, 6#32] }
       s.pidx.toNat < s.nwords.toNat ∧ s.p[s.pidx.toNat]? = some 6#32) ∧
      (inPh .prepCrc).sub = false ∧ ({ inPh .prepCrc with sub := true } : State).sub = true ∧
      ∀ v ∈ [0x0#32, 0xF#32, 0xFFFFFFF0#32],
        let s : State := { inPh .done with inputs := [.hostWrite .cmd v] }
        s.busy = false ∧ s.nextMove = .hostWrite .cmd v ∧ ∃ i : Instr, i.opcode? = some (v.setWidth 4) := by
  refine ⟨fun _ => rfl, by decide, by decide, by decide, by decide, by decide, by decide, ?_⟩
  simp only [List.mem_cons, List.not_mem_nil, or_false]
  rintro v (rfl | rfl | rfl)
  · exact ⟨rfl, rfl, .nop, rfl⟩
  · exact ⟨rfl, rfl, .upload, rfl⟩
  · exact ⟨rfl, rfl, .nop, rfl⟩

theorem witness_NopOnlyAcceptsTheCommand : (inPh .error).busy = false := rfl
theorem witness_CrcCommandsCompute : State.reset.busy = false := rfl
theorem witness_CipherCommandsCompute : (inPh .done).busy = false := rfl
theorem witness_CipherKeystreamLaw : State.reset.busy = false ∧ [1#32, 2#32][1]? = some 2#32 := ⟨rfl, rfl⟩
theorem witness_RomBuildSplitsTheImage_least :
    let s : State := { State.reset with len := 433#32 }
    s.busy = false ∧ 433 ≤ s.len.toNat ∧ s.len.toNat ≤ 262144 := by decide
theorem witness_RomBuildSplitsTheImage_greatest :
    let s : State := { State.reset with len := 262144#32 }
    s.busy = false ∧ 433 ≤ s.len.toNat ∧ s.len.toNat ≤ 262144 := by decide
theorem witness_UploadBuildsAndStartsPhaseOne :
    let s : State := { inPh .done with len := 433#32 }
    s.busy = false ∧ 433 ≤ s.len.toNat ∧ s.len.toNat ≤ 262144 := by decide
theorem witness_WrongSizeIsRejectedUntouched_small :
    let s : State := { State.reset with len := 432#32 }
    s.busy = false ∧ (s.len.toNat ≤ 432 ∨ 262145 ≤ s.len.toNat) := by decide
theorem witness_WrongSizeIsRejectedUntouched_large :
    let s : State := { State.reset with len := 262145#32 }
    s.busy = false ∧ (s.len.toNat ≤ 432 ∨ 262145 ≤ s.len.toNat) := by decide
theorem witness_BuiltCrcIsThatOfTheStoredWords :
    let s : State := { State.reset with len := 448#32, img := [(200, 7#8)] }
    s.busy = false ∧ ∃ t : State, exec .romBuild s = .next t ∧ t.phase = .idle :=
  ⟨rfl, _, rfl, rfl⟩

/-- 433 bytes with a stray byte behind them, and 448 bytes: the same padded image. -/
theorem witness_OnlyThePaddedImageMatters :
    let s : State := { State.reset with len := 433#32, img := [(440, 7#8)] }
    let s' : State := { State.reset with len := 448#32 }
    s.busy = false ∧ s'.busy = false ∧ (s.len.toNat + 15) / 16 = (s'.len.toNat + 15) / 16 ∧
      (∀ k : Nat, k < (s.len.toNat + 15) / 16 * 16 →
        (if k < s.len.toNat then Memory.read s.img k else 0#8) =
          (if k < s'.len.toNat then Memory.read s'.img k else 0#8)) ∧
      ∃ t t' : State, exec .romBuild s = .next t ∧ exec .romBuild s' = .next t' ∧ t.phase = .idle := by
  refine ⟨rfl, rfl, rfl, ?_, _, _, rfl, rfl, rfl⟩
  intro k _
  show (if k < 433 then (if 440 = k then 7#8 else 0#8) else 0#8) = if k < 448 then 0#8 else 0#8
  split
  · rw [if_neg (by omega), ite_self]
  · rw [ite_self]

theorem witness_LinkCommandsEnterUnit : (inPh .error).busy = false := rfl
theorem witness_UnitWriteHalfSendsTheFrame :
    ∀ op : BitVec 4, (unitAt op 5#32).phase = .unit ∧ (unitAt op 5#32).xhalf = false ∧ (unitAt op 5#32).wait = false ∧
      (unitAt op 5#32).txFail = false ∧ (unitAt op 5#32).cmd = op := fun _ => ⟨rfl, rfl, rfl, rfl, rfl⟩
theorem witness_XferReturnsTheHighHalf :
    ∀ op : BitVec 4, let s : State := { answered .unit [1#8, 2#8, 3#8, 4#8] with cmd := op }
      s.phase = .unit ∧ s.xhalf = true ∧ s.rx = [.byte 1#8, .byte 2#8, .byte 3#8, .byte 4#8] ∧ s.cmd = op :=
  fun _ => ⟨rfl, rfl, rfl, rfl⟩
theorem witness_SenddDemandsTheResponse :
    let s : State := { answered .unit [1#8, 2#8, 3#8, 4#8] with cmd := 0xA#4 }
    s.phase = .unit ∧ s.cmd = 0xA#4 ∧ s.xhalf = true ∧ s.rx = [.byte 1#8, .byte 2#8, .byte 3#8, .byte 4#8] :=
  ⟨rfl, rfl, rfl, rfl⟩
theorem witness_SenduRepeatsUntilTheResponse :
    (let s : State := { answered .unit [1#8, 2#8, 3#8, 4#8] with cmd := 0xB#4 }
     s.phase = .unit ∧ s.cmd = 0xB#4 ∧ s.wait = false ∧ s.xhalf = true ∧
       s.rx = [.byte 1#8, .byte 2#8, .byte 3#8, .byte 4#8]) ∧
    (let s : State := { unitAt 0xB#4 0#32 with wait := true }
     s.phase = .unit ∧ s.cmd = 0xB#4 ∧ s.wait = true) := by decide
theorem witness_DelayIsOneLabelledStep : (unitAt 0xC#4 0#32).phase = .unit ∧ (unitAt 0xC#4 0#32).cmd = 0xC#4 := ⟨rfl, rfl⟩
theorem witness_CommandWhileBusyIsRefused :
    (let s : State := { inPh .unit with inputs := [.hostWrite .cmd 0x1#32] }
     s.busy = true ∧ s.inputs = [.hostWrite .cmd 0x1#32]) ∧
    (let s : State := { inPh .error with refused := true }
     s.busy = false ∧ Instr.xfer.opcode?.isSome = true ∧ Instr.xfer ≠ .reservedD ∧ Instr.xfer ≠ .reservedE ∧
       ∃ t : State, exec .xfer s = .next t) :=
  ⟨by decide, rfl, rfl, by decide, by decide, _, rfl⟩

/-- One instruction in its place for every wire word, the indices at the ends of their ranges. -/
theorem witness_WireWordsAreSentAsTheirFrames :
    ∀ x ∈ [(Instr.wPoll, inPh .discover), (.wPoll, inPh .stabilize), (.wPr1, inPh .pr1), (.wHdr 1#16, inPh .headers),
      (.wHdr 1#16, { inPh .headers with hidx := 95#7 }), (.wHdrend, { inPh .headers with hidx := 96#7 }),
      (.wPr2, inPh .pr2), (.wPal, inPh .palette), (.wHs 0xFF#8, inPh .handshake), (.wLen 12#16, inPh .length),
      (.wData 5#32, { inPh .main with nwords := 2#16, pidx := 1#16 }), (.wCrcreq, inPh .prepCrc),
      (.wCrcgo, { inPh .prepCrc with sub := true }), (.wCrc 5#16, inPh .sendCrc)],
      inPlace x.1 x.2 = true ∧ x.2.phase ≠ .unit ∧ x.2.xhalf = false ∧ x.2.wait = false ∧ x.2.txFail = false := by
  decide
theorem witness_DiscoverFollowsTheResponse :
    (let s := answered .discover [0#8, 0#8, 3#8, 4#8]
     s.phase = .discover ∧ s.wait = false ∧ s.xhalf = true ∧ s.rx = [.byte 0#8, .byte 0#8, .byte 3#8, .byte 4#8]) ∧
    (let s : State := { inPh .discover with wait := true }
     s.phase = .discover ∧ s.wait = true) := by decide
theorem witness_StabilizeCountsFifteenInARow :
    (let s : State := { answered .stabilize [0x72#8, 2#8, 3#8, 4#8] with stab := 14#4 }
     s.phase = .stabilize ∧ s.wait = false ∧ s.xhalf = true ∧ s.stab.toNat < 15 ∧
       s.rx = [.byte 0x72#8, .byte 2#8, .byte 3#8, .byte 4#8]) ∧
    (let s : State := { inPh .stabilize with wait := true }
     s.phase = .stabilize ∧ s.wait = true) := by decide
theorem witness_SingleShotPhasesAdvance :
    (let s := answered .pr1 [0x72#8, 2#8, 3#8, 4#8]
     s.xhalf = true ∧ s.rx = [.byte 0x72#8, .byte 2#8, .byte 3#8, .byte 4#8] ∧ s.phase = .pr1) ∧
    (let s : State := { answered .headers [0#8, 2#8, 3#8, 4#8] with hidx := 96#7 }
     s.xhalf = true ∧ s.rx = [.byte 0#8, .byte 2#8, .byte 3#8, .byte 4#8] ∧ s.phase = .headers ∧ s.hidx = 96#7) ∧
    (let s := answered .pr2 [0x72#8, 2#8, 3#8, 4#8]
     s.xhalf = true ∧ s.rx = [.byte 0x72#8, .byte 2#8, .byte 3#8, .byte 4#8] ∧ s.phase = .pr2) ∧
    (let s := answered .handshake [0x73#8, 2#8, 3#8, 4#8]
     s.xhalf = true ∧ s.rx = [.byte 0x73#8, .byte 2#8, .byte 3#8, .byte 4#8] ∧ s.phase = .handshake) ∧
    (0x72#8 ++ 0x02#8 : Half) = 0x7202#16 ∧ (0#8 ++ 0x02#8 : Half) = 0x0002#16 := by decide
theorem witness_HeaderWordsCountDown_first :
    let s := answered .headers [96#8, 2#8, 3#8, 4#8]
    s.phase = .headers ∧ s.xhalf = true ∧ s.hidx.toNat < 96 ∧
      s.rx = [.byte 96#8, .byte 2#8, .byte 3#8, .byte 4#8] ∧ (96#8).toNat = 96 - s.hidx.toNat := by decide
theorem witness_HeaderWordsCountDown_last :
    let s : State := { answered .headers [1#8, 2#8, 3#8, 4#8] with hidx := 95#7 }
    s.phase = .headers ∧ s.xhalf = true ∧ s.hidx.toNat < 96 ∧
      s.rx = [.byte 1#8, .byte 2#8, .byte 3#8, .byte 4#8] ∧ (1#8).toNat = 96 - s.hidx.toNat := by decide
theorem witness_PaletteRecordsTheSeed :
    let s := answered .palette [0x73#8, 2#8, 3#8, 4#8]
    s.phase = .palette ∧ s.wait = false ∧ s.xhalf = true ∧
      s.rx = [.byte 0x73#8, .byte 2#8, .byte 3#8, .byte 4#8] := by decide
theorem witness_FixedDelayComesBeforeTheLength :
    (inPh .fixedDelay).phase = .fixedDelay ∧ (inPh .fixedDelay).nextMove = .turn := ⟨rfl, rfl⟩
theorem witness_LengthRecordsTheFinalByteAndStartsTheCipher :
    let s := answered .length [0x73#8, 2#8, 3#8, 4#8]
    s.phase = .length ∧ s.xhalf = true ∧ s.rx = [.byte 0x73#8, .byte 2#8, .byte 3#8, .byte 4#8] := by decide
theorem witness_DataResponsesAreDiscarded :
    (let s : State := { answered .main [1#8, 2#8, 3#8, 4#8] with nwords := 65488#16, pidx := 65487#16 }
     s.phase = .main ∧ s.xhalf = true ∧ s.pidx.toNat < s.nwords.toNat ∧
       s.rx = [.byte 1#8, .byte 2#8, .byte 3#8, .byte 4#8] ∧ s.pidx.toNat + 1 = s.nwords.toNat) ∧
    (let s : State := { answered .main [1#8, 2#8, 3#8, 4#8] with nwords := 64#16 }
     s.phase = .main ∧ s.xhalf = true ∧ s.pidx.toNat < s.nwords.toNat ∧
       s.rx = [.byte 1#8, .byte 2#8, .byte 3#8, .byte 4#8]) := by decide
theorem witness_PrepareCrcPollsConfirmsAndSeals :
    (let s : State := { inPh .prepCrc with wait := true }
     s.phase = .prepCrc ∧ s.sub = false ∧ s.wait = true) ∧
    (let s := answered .prepCrc [0#8, 0x75#8, 3#8, 4#8]
     s.phase = .prepCrc ∧ s.xhalf = true ∧ s.rx = [.byte 0#8, .byte 0x75#8, .byte 3#8, .byte 4#8] ∧ s.sub = false ∧
       s.wait = false) ∧
    (let s : State := { answered .prepCrc [0#8, 0x75#8, 3#8, 4#8] with sub := true }
     s.phase = .prepCrc ∧ s.xhalf = true ∧ s.rx = [.byte 0#8, .byte 0x75#8, .byte 3#8, .byte 4#8] ∧
       s.sub = true) := by decide
theorem witness_EchoOfTheCrcEndsTheUpload :
    let s := answered .sendCrc [1#8, 2#8, 3#8, 4#8]
    s.phase = .sendCrc ∧ s.xhalf = true ∧ s.rx = [.byte 1#8, .byte 2#8, .byte 3#8, .byte 4#8] := by decide

/-- A response of zeros fails at every site but the terminator's, where 0x0102 does. -/
theorem witness_UnexpectedResponseSites :
    (∀ ph ∈ [Phase.pr1, .headers, .pr2, .handshake, .length, .prepCrc],
      (answered ph [0#8, 0#8, 3#8, 4#8]).xhalf = true ∧ (answered ph [0#8, 0#8, 3#8, 4#8]).phase = ph ∧
        (answered ph [0#8, 0#8, 3#8, 4#8]).rx = [.byte 0#8, .byte 0#8, .byte 3#8, .byte 4#8]) ∧
      (0#8 ++ 0#8 : Half) ≠ 0x7202#16 ∧ 0#8 ≠ 0x73#8 ∧ 0#8 ≠ 0x75#8 ∧
      ((0#8 ++ 0#8 : Half) ≠ BitVec.ofNat 16 ((96 - (0#7).toNat) * 256 + 2) ∧
        (0#8 ++ 0#8 : Half) ≠ BitVec.ofNat 16 ((96 - (95#7).toNat) * 256 + 2)) ∧ (1#8 ++ 2#8 : Half) ≠ 0x0002#16 ∧
      ({ answered .headers [1#8, 2#8, 3#8, 4#8] with hidx := 96#7 } : State).hidx = 96#7 ∧
      ({ answered .prepCrc [0#8, 0#8, 3#8, 4#8] with sub := true } : State).sub = true := by decide

theorem witness_TransportFailuresAbort :
    (let s : State := { inPh .pr1 with txFail := true }
     inPlace .wPr1 s = true ∧ s.wait = false ∧ s.xhalf = false ∧ s.txFail = true) ∧
    (let s : State := { unitAt 0x9#4 0#32 with xhalf := true, rx := [.byte 1#8, .byte 2#8, .byte 3#8, .failure] }
     inPlace .xfer32 s = true ∧ s.wait = false ∧ s.xhalf = true ∧ [1#8, 2#8, 3#8].length < 4 ∧
       s.rx = [1#8, 2#8, 3#8].map .byte ++ .failure :: []) ∧
    (let s : State := { inPh .sendCrc with xhalf := true, rx := [.closed] }
     inPlace (.wCrc 0#16) s = true ∧ s.wait = false ∧ s.xhalf = true ∧ ([] : List Byte).length < 4 ∧
       s.rx = ([] : List Byte).map .byte ++ .closed :: []) := by decide
theorem witness_IncompleteReadWaits :
    let s : State := { inPh .palette with xhalf := true, rx := [.byte 1#8, .byte 2#8, .byte 3#8] }
    inPlace .wPal s = true ∧ s.wait = false ∧ s.xhalf = true ∧ [1#8, 2#8, 3#8].length < 4 ∧
      s.rx = [1#8, 2#8, 3#8].map .byte := by decide
theorem witness_ErrorsArePrecise :
    (let s := answered .pr1 [0#8, 0#8, 0#8, 0#8]
     s.busy = true ∧ ∃ t : State, exec .wPr1 s = .next t ∧ t.phase = .error) ∧
    (let s : State := { inPh .main with nwords := 1#16, txFail := true }
     s.busy = true ∧ ∃ t : State, exec (.wData 0#32) s = .next t ∧ t.phase = .error) :=
  ⟨⟨rfl, _, rfl, rfl⟩, rfl, _, rfl, rfl⟩
theorem witness_ErrorKindsByOperation :
    let s := answered .pr2 [0#8, 0#8, 0#8, 0#8]
    s.phase ≠ .error ∧ ∃ t : State, exec .wPr2 s = .next t ∧ t.phase = .error :=
  ⟨by decide, _, rfl, rfl⟩
theorem witness_InstructionsWriteOnlyTheirColumns : ∃ t : State, exec .ciphEnc State.reset = .next t := ⟨_, rfl⟩
theorem witness_PhasesAdvanceStrictlyInOrder :
    (let s := answered .palette [0x73#8, 2#8, 3#8, 4#8]
     (∃ t : State, step s = .next t) ∧ (∀ w : Bool, s.nextMove ≠ .reset w) ∧ 1 ≤ s.phase.code.toNat ∧
       s.phase.code.toNat ≤ 12) ∧
    (∃ t : State, step (unitAt 0x7#4 0#32) = .next t) ∧ (∀ w : Bool, (unitAt 0x7#4 0#32).nextMove ≠ .reset w) ∧
    (∃ t : State, step State.reset = .next t) ∧ ∀ w : Bool, State.reset.nextMove ≠ .reset w :=
  ⟨⟨⟨_, rfl⟩, by decide, by decide, by decide⟩, ⟨_, rfl⟩, by decide, ⟨_, rfl⟩, by decide⟩
theorem witness_LinkEventsAreInOrder :
    ControlSound midUpload ∧ (∃ t : State, step midUpload = .next t ∧ t.xhalf = true) ∧
      (∀ w : Bool, midUpload.nextMove ≠ .reset w) ∧ ControlSound lastEcho ∧
      (∃ t : State, step lastEcho = .next t ∧ t.xhalf = false) ∧ ∀ w : Bool, lastEcho.nextMove ≠ .reset w :=
  ⟨midUpload_control, ⟨_, rfl, rfl⟩, by decide, lastEcho_control, ⟨_, rfl, rfl⟩, by decide⟩
theorem witness_SequencerDelaysAre62500 :
    let s : State := { inPh .prepCrc with wait := true }
    ControlSound s ∧ s.phase.inUpload = true ∧ ∃ t : State, step s = .next t ∧ t.trace = s.trace ++ [.delay 62500#32] :=
  ⟨by constructor <;> decide, rfl, _, rfl, rfl⟩

/-- Two blocks that differ in CRC, cipher and phase run UPLOAD on equal links: the first write goes out, a byte arrives,
the stream closes, and the second step of the block meets the closure. -/
theorem witness_UploadDependsOnlyOnImageAndLink :
    let l : List Input := [.turn, .deliver (.byte 1#8), .deliver .closed, .failNextWrite, .turn]
    let s : State := { State.reset with inputs := .hostWrite .cmd 0xF#32 :: l, len := 440#32 }
    let t : State :=
      { inPh .done with inputs := .hostWrite .cmd 0xF#32 :: l, len := 440#32, crc := 5#16, lcg := 6#32, seed := 7#8 }
    s.busy = false ∧ t.busy = false ∧ (0xF#32).setWidth 4 = 0xF#4 ∧ s.inputs = .hostWrite .cmd 0xF#32 :: l ∧
      t.inputs = .hostWrite .cmd 0xF#32 :: l ∧
      (∀ m : Input, m ∈ l → m = .turn ∨ (∃ x : RxItem, m = .deliver x) ∨ m = .failNextWrite) ∧
      s.len = t.len ∧ s.img = t.img ∧ s.rx = t.rx ∧ s.txFail = t.txFail ∧
      s.trace = t.trace ∧ s.draws = t.draws ∧
      ∃ s' : State, Host.Core.run core (5 + 1) s = .next s' ∧ s'.phase = .error ∧ s'.rx.getLast? = some .closed := by
  refine ⟨rfl, rfl, rfl, rfl, rfl, by simp, rfl, rfl, rfl, rfl, rfl, rfl, _, rfl, rfl, ?_⟩
  exact List.getLast?_concat
theorem witness_WireWordsNeverReadTheImage :
    Instr.wPr1.opcode? = none ∧ ∃ t : State, exec .wPr1 (inPh .pr1) = .next t := ⟨rfl, _, rfl⟩

/-- Each form of the write: a writable register, a read-only one, and the two ends of what R281 adds, while the block is
not busy and while it is. -/
theorem witness_HostWritesOwnedRegistersOnly :
    ∀ r ∈ [HostReg.opa, .opb, .opc, .opd, .len, .stat, .refused, .rms, .h 95, .p 65487], ∀ ph ∈ [Phase.error, .main],
      let s : State := { inPh ph with inputs := [.hostWrite r 0xFFFFFFFF#32] }
      s.inputs = [.hostWrite r 0xFFFFFFFF#32] ∧ r ≠ .cmd ∧ s.busy = decide (ph = .main) := by decide
theorem witness_HostImageWritesStoreOneByte :
    ∀ k ∈ [0, 262143, 262144],
      let s : State := { State.reset with inputs := [.hostImage k 1#8] }
      s.inputs = [.hostImage k 1#8] ∧ Memory.wf s.img = true := by decide
theorem witness_HostReadsReturnTheRegister :
    (∀ r : HostReg, let s : State := { State.reset with inputs := [.hostRead r] }
      s.inputs = [.hostRead r] ∧ s.busy = false) ∧
    (let s : State := { inPh .error with inputs := [.hostRead (.p 1)], p := [5#32, 6#32] }
     s.inputs = [.hostRead (.p 1)] ∧ s.busy = false ∧ s.p[(1 : Fin 65488).val]? = some 6#32) :=
  ⟨fun _ => ⟨rfl, rfl⟩, by decide⟩
theorem witness_LinkMovesActOnTheTransportOnly :
    (let s : State := { inPh .pr1 with rx := [.byte 1#8], inputs := [.deliver .failure] }
     s.inputs = [.deliver .failure]) ∧
    (let s : State := { inPh .pr1 with inputs := [.deliver (.byte 1#8), .deliver (.byte 2#8), .drainLink] }
     s.inputs = [RxItem.byte 1#8, .byte 2#8].map .deliver ++ [.drainLink]) ∧
    (let s : State := { inPh .main with inputs := [.failNextWrite] }
     s.inputs = [.failNextWrite]) ∧
    (let s : State := { inPh .error with rx := [.byte 1#8, .closed], inputs := [.drainLink] }
     s.busy = false ∧ s.inputs = [.drainLink]) := by decide
theorem witness_ResetAbandonsTheCommandAndKeepsTheLink :
    let s : State := { unitAt 0x7#4 0x12345678#32 with inputs := [.reset true] }
    s.inputs = [.reset true] ∧ pendingWord s = some 0x12345678#32 := by decide
theorem witness_StatusBitsFollowThePhase :
    ({ inPh .main with inputs := [.hostWrite .stat 7#32] } : State).inputs = [.hostWrite .stat 7#32] := rfl
theorem witness_IdleBlockTakesNoStep : (inPh .done).busy = false ∧ (inPh .done).nextMove = .turn := ⟨rfl, rfl⟩
theorem witness_StopsAreThese :
    (let s : State := { inPh .unit with inputs := [.drainLink] }
     s.busy = true ∧ s.inputs = [.drainLink]) ∧
    (Instr.wPal.opcode? = none ∧ inPlace .wPal State.reset = false) ∧
    (let s : State := { inPh .main with nwords := 1#16 }
     s.phase = .main ∧ s.nextMove = .turn ∧ s.pidx.toNat < s.nwords.toNat ∧ s.p.length ≤ s.pidx.toNat) ∧
    UploadSound midUpload ∧ ∀ l : List Input, midUpload.inputs ≠ .drainLink :: l :=
  ⟨by decide, by decide, by decide, midUpload_upload, fun _ h => by cases h⟩
theorem witness_StepKeepsControlSound :
    ControlSound lastEcho ∧ ∃ t : State, step lastEcho = .next t ∧ t.phase = .done := ⟨lastEcho_control, _, rfl, rfl⟩
theorem witness_StepKeepsUploadSound : UploadSound lastEcho ∧ ∃ t : State, step lastEcho = .next t ∧ t.phase = .done :=
  ⟨lastEcho_upload, _, rfl, rfl⟩
theorem witness_StepKeepsMemoryCanonical :
    let s : State := { State.reset with img := [(5, 7#8)], inputs := [.hostImage 5 0#8] }
    Memory.wf s.img = true ∧ ∃ t : State, step s = .next t ∧ t.img = [] := ⟨by decide, _, rfl, rfl⟩

end Sys2Proof.Tests
end

/-! PROOFS of the family 10_state.md: the rules about the control part of a state, what every instruction leaves
unchanged, the order of the phases, the independence of an upload from what was left behind, reset, the stops and the
host port. -/

namespace Sys2Proof.StateProofs

open Sys2Proof.Machine

/-! ### Control soundness: what it depends on, and how the shared operations keep it -/

/-- The fields `ControlSound` speaks of. -/
def controlFields (s : State) :
    Phase × Bool × Bool × Bool × BitVec 4 × BitVec 4 × BitVec 7 × Half × Half × ErrRecord :=
  (s.phase, s.xhalf, s.wait, s.sub, s.cmd, s.stab, s.hidx, s.pidx, s.prog, s.err)

/-- A change of the other fields keeps the control part. -/
theorem controlSound_of_controlFields {s t : State} (hs : ControlSound s) (h : controlFields t = controlFields s) :
    ControlSound t := by
  simp only [controlFields, Prod.mk.injEq] at h
  obtain ⟨hphase, hxhalf, hwait, hsub, hcmd, hstab, hhidx, hpidx, hprog, herr⟩ := h
  have hbusy : t.busy = s.busy := by rw [State.busy, State.busy, hphase]
  constructor
  · rw [hbusy, hxhalf, hwait]; exact hs.quiet
  · rw [hprog, hpidx]; exact hs.progress
  · rw [hhidx]; exact hs.headerIndex
  · rw [hphase, herr]; exact hs.record
  · rw [hwait, hxhalf, hphase, hsub, hcmd]; exact hs.waiting
  · rw [hxhalf, hphase, hcmd]; exact hs.inFlight
  · rw [hphase, hcmd]; exact hs.unitCommand
  · rw [hphase, hstab]; exact hs.stabilizing

/-- With no transfer in flight and no delay pending the flags ask for nothing. -/
theorem controlSound_of_flags_clear {s : State} (hx : s.xhalf = false) (hw : s.wait = false)
    (hprog : s.prog = s.pidx) (hidx : s.hidx.toNat ≤ 96)
    (hrec : if s.phase = .error then 1 ≤ s.err.kind.toNat ∧ s.err.kind.toNat ≤ 4 else s.err = ErrRecord.none)
    (hunit : s.phase = .unit → 7 ≤ s.cmd.toNat ∧ s.cmd.toNat ≤ 12)
    (hstab : s.phase = .stabilize → s.stab.toNat < 15) : ControlSound s where
  quiet _ := ⟨hx, hw⟩
  progress := hprog
  headerIndex := hidx
  record := hrec
  waiting h := by rw [hw] at h; cases h
  inFlight h := by rw [hx] at h; cases h
  unitCommand := hunit
  stabilizing := hstab

/-- Outside ERROR the record is clear. -/
theorem err_eq_none {s : State} (hs : ControlSound s) (h : s.phase ≠ .error) : s.err = ErrRecord.none := by
  have := hs.record
  rwa [if_neg h] at this

/-- An idle step to any phase but ERROR, UNIT and phase 2. -/
theorem controlSound_of_plain_phase {s : State} (hx : s.xhalf = false) (hw : s.wait = false)
    (hprog : s.prog = s.pidx) (hidx : s.hidx.toNat ≤ 96) (herr : s.err = ErrRecord.none)
    (hp : s.phase ≠ .error ∧ s.phase ≠ .unit ∧ s.phase ≠ .stabilize) : ControlSound s := by
  obtain ⟨hne, hnu, hns⟩ := hp
  refine controlSound_of_flags_clear hx hw hprog hidx ?_ (fun h => absurd h hnu) (fun h => absurd h hns)
  rw [if_neg hne]
  exact herr

/-- Every record of R270 has one of the four kinds. -/
theorem record_kind (k : ErrKind) (ph : Phase) :
    1 ≤ (k.record ph).kind.toNat ∧ (k.record ph).kind.toNat ≤ 4 := by
  cases k <;> simp [ErrKind.record]

/-- An error clears the flags and leaves a valid record; the indices it finds have to be sound. -/
theorem controlSound_raise (k : ErrKind) {s : State} (hprog : s.prog = s.pidx) (hidx : s.hidx.toNat ≤ 96) :
    ControlSound (raise k s) :=
  controlSound_of_flags_clear rfl rfl hprog hidx (by simpa using record_kind k s.phase) (by simp) (by simp)

/-- The sites where a delay may be pending (R34). -/
def pollSite (s : State) : Prop :=
  s.phase = .discover ∨ s.phase = .stabilize ∨ (s.phase = .prepCrc ∧ s.sub = false) ∨
    (s.phase = .unit ∧ s.cmd = 0xB#4)

theorem busy_of_pollSite {s : State} (h : pollSite s) : s.busy = true := by
  rcases h with h | h | ⟨h, -⟩ | ⟨h, -⟩ <;> simp [State.busy, h, Phase.isBusy]

/-- A delay may become pending at the polling sites. -/
theorem controlSound_startDelay {s : State} (hs : ControlSound s) (hx : s.xhalf = false) (hp : pollSite s) :
    ControlSound { s with wait := true } where
  quiet h := absurd (busy_of_pollSite hp) (Bool.eq_false_iff.1 h)
  progress := hs.progress
  headerIndex := hs.headerIndex
  record := hs.record
  waiting _ := ⟨hx, hp⟩
  inFlight := hs.inFlight
  unitCommand := hs.unitCommand
  stabilizing := hs.stabilizing

/-- The end of a delay keeps the control part. -/
theorem controlSound_delayEnds (us : Word) {s : State} (hs : ControlSound s) : ControlSound (delayEnds us s) where
  quiet h := ⟨(hs.quiet h).1, rfl⟩
  progress := hs.progress
  headerIndex := hs.headerIndex
  record := hs.record
  waiting h := by cases h
  inFlight := hs.inFlight
  unitCommand := hs.unitCommand
  stabilizing := hs.stabilizing

/-- The end of a read half keeps the control part. -/
theorem controlSound_readDone {s : State} (hs : ControlSound s) (rx : List RxItem) (tr : List Obs) :
    ControlSound { s with rx := rx, xhalf := false, trace := tr } where
  quiet h := ⟨rfl, (hs.quiet h).2⟩
  progress := hs.progress
  headerIndex := hs.headerIndex
  record := hs.record
  waiting h := ⟨rfl, (hs.waiting h).2⟩
  inFlight h := by cases h
  unitCommand := hs.unitCommand
  stabilizing := hs.stabilizing

/-- The end of a write half keeps the control part where transfers happen and no delay is pending. -/
theorem controlSound_writeDone {s : State} (hs : ControlSound s) (hb : s.busy = true) (hw : s.wait = false)
    (hp : s.phase ≠ .fixedDelay ∧ (s.phase = .unit → s.cmd ≠ 0xC#4)) (tr : List Obs) :
    ControlSound { s with xhalf := true, trace := tr } where
  quiet h := absurd hb (Bool.eq_false_iff.1 h)
  progress := hs.progress
  headerIndex := hs.headerIndex
  record := hs.record
  waiting h := absurd hw (by simpa using h)
  inFlight _ := hp
  unitCommand := hs.unitCommand
  stabilizing := hs.stabilizing

/-- A transfer keeps the control part if what its response does keeps it. -/
theorem controlSound_transfer {w : Word} {k : Half → State → State} {s : State} (hs : ControlSound s)
    (hb : s.busy = true) (hw : s.wait = false) (hp : s.phase ≠ .fixedDelay ∧ (s.phase = .unit → s.cmd ≠ 0xC#4))
    (hk : ∀ r rx tr, ControlSound (k r { s with rx := rx, xhalf := false, trace := tr })) :
    ControlSound (transfer w k s) := by
  apply transfer_spec (motive := ControlSound)
  case wrote => exact fun _ _ => controlSound_writeDone hs hb hw hp _
  case frame => exact fun _ _ _ _ _ _ _ => hk _ _ _
  case waiting => exact fun _ _ => hs
  case writeFailed => exact fun _ _ => controlSound_raise _ hs.progress hs.headerIndex
  case failed => exact fun _ _ _ _ => controlSound_raise _ hs.progress hs.headerIndex
  case ended => exact fun _ _ _ _ => controlSound_raise _ hs.progress hs.headerIndex

/-! ### Instructions in their place -/

theorem inPlace_cipherAdvance (i : Instr) (s : State) : inPlace i (cipherAdvance s) = inPlace i s := by
  cases i <;> rfl

/-- The end of a read half leaves an instruction in its place. -/
theorem inPlace_readDone (i : Instr) (s : State) (rx : List RxItem) (tr : List Obs) :
    inPlace i { s with rx := rx, xhalf := false, trace := tr } = inPlace i s := by
  cases i <;> rfl

theorem inPlace_beforeTransfer (i j : Instr) (s : State) : inPlace i (beforeTransfer j s) = inPlace i s := by
  rcases beforeTransfer_cases j s with ⟨h, -⟩ | ⟨h, -⟩ <;> rw [h]
  exact inPlace_cipherAdvance i s

theorem controlFields_beforeTransfer (i : Instr) (s : State) :
    controlFields (beforeTransfer i s) = controlFields s := by
  rcases beforeTransfer_cases i s with ⟨h, -⟩ | ⟨h, -⟩ <;> rw [h]
  rfl

/-- An instruction runs in its place only where a transfer may be in flight. -/
theorem transferSite_of_inPlace {i : Instr} {s : State} (h : inPlace i s = true) :
    s.busy = true ∧ s.phase ≠ .fixedDelay ∧ (s.phase = .unit → s.cmd ≠ 0xC#4) := by
  cases i <;> simp [inPlace] at h
  case wPoll => rcases h with h | h <;> simp [State.busy, Phase.isBusy, h]
  all_goals simp [State.busy, Phase.isBusy, h]

/-- In a sound state a delay is pending only in the place of a polling instruction. -/
theorem wait_eq_false_of_no_pollDelay {i : Instr} {s : State} (hs : ControlSound s) (h : inPlace i s = true)
    (hd : pollDelay i s = none) : s.wait = false := by
  rw [Bool.eq_false_iff]
  intro hw
  obtain ⟨-, hp⟩ := hs.waiting hw
  cases i <;> simp [inPlace] at h <;> simp [pollDelay] at hd <;> simp [h] at hp

/-- A demanded response keeps the control part if the matching one does. -/
theorem controlSound_demand {w e m r : Half} {k : Half → State → State} {t : State} (ht : ControlSound t)
    (hk : ControlSound (k r t)) : ControlSound (demand w e m k r t) := by
  unfold demand
  split
  · exact hk
  · exact controlSound_raise _ ht.progress ht.headerIndex

/-- A polled response keeps the control part if the matching one does and a delay may be pending, unless there is
none. -/
theorem controlSound_poll {e m r : Half} {d : Word} {k : Half → State → State} {t : State} (ht : ControlSound t)
    (hx : t.xhalf = false) (hp : d ≠ 0#32 → pollSite t) (hk : ControlSound (k r t)) :
    ControlSound (poll e m d k r t) := by
  unfold poll
  split
  · exact hk
  · split
    next => exact ht
    next hd => exact controlSound_startDelay ht hx (hp hd)

/-- What a response does in phase 1. -/
theorem controlSound_discoverResponse {t : State} (r : Half) (ht : ControlSound t) (hx : t.xhalf = false)
    (hw : t.wait = false) (hp : t.phase = .discover) : ControlSound (discoverResponse r t) := by
  have herr := err_eq_none ht (by simp [hp])
  have again : ControlSound { t with wait := true } := controlSound_startDelay ht hx (.inl hp)
  have stabilize : ControlSound { t with stab := 0#4, phase := .stabilize } :=
    controlSound_of_flags_clear hx hw ht.progress ht.headerIndex (by simpa using herr) (by simp) (by simp)
  have seen : ControlSound { t with rms := true, wait := true } := controlSound_of_controlFields again rfl
  unfold discoverResponse
  split_ifs <;> assumption

/-- What a response does in phase 2: the counter stays below 15 while the phase runs. -/
theorem controlSound_stabilizeResponse {t : State} (r : Half) (ht : ControlSound t) (hx : t.xhalf = false)
    (hw : t.wait = false) (hp : t.phase = .stabilize) : ControlSound (stabilizeResponse r t) := by
  have herr := err_eq_none ht (by simp [hp])
  unfold stabilizeResponse
  split_ifs with h1 h2
  · exact controlSound_of_plain_phase hx hw ht.progress ht.headerIndex herr (by simp)
  · refine controlSound_of_flags_clear hx hw ht.progress ht.headerIndex ht.record ht.unitCommand fun _ => ?_
    have hlt := ht.stabilizing hp
    show (t.stab + 1#4).toNat < 15
    bv_omega
  · refine controlSound_startDelay (s := { t with stab := 0#4 }) ?_ hx (.inr (.inl hp))
    exact controlSound_of_flags_clear hx hw ht.progress ht.headerIndex ht.record ht.unitCommand fun _ => by simp

/-- What a completed data transfer does: both indices advance together. -/
theorem controlSound_dataSent {t : State} (ht : ControlSound t) (hx : t.xhalf = false) (hw : t.wait = false)
    (hp : t.phase = .main) : ControlSound (dataSent t) := by
  have herr := err_eq_none ht (by simp [hp])
  unfold dataSent
  split
  · exact controlSound_of_plain_phase hx hw rfl ht.headerIndex herr (by simp [leaveMain])
  · exact controlSound_of_plain_phase hx hw rfl ht.headerIndex herr (by simp [hp])

theorem phase_ne_error_of_busy {s : State} (hb : s.busy = true) : s.phase ≠ .error := by
  intro hp
  simp [State.busy, hp, Phase.isBusy] at hb

/-- A response that moves on to a phase with no demands of its own. -/
theorem controlSound_movedTo (q : Phase) {t u : State} (ht : ControlSound t) (hx : t.xhalf = false)
    (hw : t.wait = false) (hp : t.phase ≠ .error) (hq : q ≠ .error ∧ q ≠ .unit ∧ q ≠ .stabilize)
    (hu : controlFields u = controlFields { t with phase := q }) : ControlSound u := by
  have herr := err_eq_none ht hp
  exact controlSound_of_controlFields
    (controlSound_of_plain_phase (s := { t with phase := q }) hx hw ht.progress ht.headerIndex herr hq) hu

/-- What the response of an instruction does keeps the control part. -/
theorem controlSound_onResponse {i : Instr} {s t : State} (r : Half) (h : inPlace i t = true) (ht : ControlSound t)
    (hx : t.xhalf = false) (hw : t.wait = false) : ControlSound (onResponse i s r t) := by
  have hne : t.phase ≠ .error := phase_ne_error_of_busy (transferSite_of_inPlace h).1
  have herr : t.err = ErrRecord.none := err_eq_none ht hne
  have moved (q : Phase) {u : State} := controlSound_movedTo q (u := u) ht hx hw hne
  cases i <;> simp [inPlace] at h <;> simp only [onResponse]
  case xfer | xfer16 | xfer32 => exact moved .idle (by decide) rfl
  case sendd =>
    apply controlSound_demand ht
    exact moved .idle (by decide) rfl
  case sendu =>
    apply controlSound_poll ht hx fun _ => .inr (.inr (.inr h))
    exact moved .idle (by decide) rfl
  case wPoll =>
    split
    next hp => exact controlSound_discoverResponse r ht hx hw hp
    next hp => exact controlSound_stabilizeResponse r ht hx hw (h.resolve_left hp)
  case wPr1 =>
    apply controlSound_demand ht
    exact controlSound_of_plain_phase hx hw ht.progress (by simp) herr (by simp)
  case wHdr =>
    apply controlSound_demand ht
    obtain ⟨hp, hlt⟩ := h
    refine controlSound_of_plain_phase hx hw ht.progress ?_ herr (by simp [hp])
    show (t.hidx + 1#7).toNat ≤ 96
    bv_omega
  case wHdrend =>
    apply controlSound_demand ht
    exact moved .pr2 (by decide) rfl
  case wPr2 =>
    apply controlSound_demand ht
    exact moved .palette (by decide) rfl
  case wPal =>
    apply controlSound_poll ht hx (absurd rfl)
    exact moved .handshake (by decide) rfl
  case wHs =>
    apply controlSound_demand ht
    exact moved .fixedDelay (by decide) rfl
  case wLen =>
    apply controlSound_demand ht
    exact controlSound_of_plain_phase hx hw rfl ht.headerIndex herr (by simp [startMain])
  case wData => exact controlSound_dataSent ht hx hw h.1
  case wCrcreq =>
    apply controlSound_poll ht hx fun _ => .inr (.inr (.inl h))
    exact controlSound_of_plain_phase hx hw ht.progress ht.headerIndex herr (by simp [h])
  case wCrcgo =>
    apply controlSound_demand ht
    exact moved .sendCrc (by decide) rfl
  case wCrc =>
    apply controlSound_demand ht
    exact moved .done (by decide) rfl

/-- The next half of an instruction's transfer keeps the control part. -/
theorem controlSound_inPlace_transfer {i : Instr} {s : State} (hs : ControlSound s) (h : inPlace i s = true)
    (hw : s.wait = false) : ControlSound (transfer (sentWord i s) (onResponse i s) (beforeTransfer i s)) := by
  have hfields := controlFields_beforeTransfer i s
  have hu : ControlSound (beforeTransfer i s) := controlSound_of_controlFields hs hfields
  have hplace : inPlace i (beforeTransfer i s) = true := (inPlace_beforeTransfer i i s).trans h
  have hwait : (beforeTransfer i s).wait = false := by
    simp only [controlFields, Prod.mk.injEq] at hfields
    obtain ⟨-, -, hwait, -⟩ := hfields
    rw [hwait, hw]
  obtain ⟨hb, hp⟩ := transferSite_of_inPlace hplace
  refine controlSound_transfer hu hb hwait hp fun r rx tr => ?_
  exact controlSound_onResponse r ((inPlace_readDone i _ rx tr).trans hplace) (controlSound_readDone hu rx tr) rfl hwait

/-! ### Commands -/

/-- An accepted command leaves a sound idle block. -/
theorem controlSound_accept (op : BitVec 4) {s : State} (hs : ControlSound s) (hb : s.busy = false) :
    ControlSound (accept op s) :=
  controlSound_of_plain_phase (hs.quiet hb).1 (hs.quiet hb).2 hs.progress hs.headerIndex rfl (by simp)

/-- An accepted link command runs in PHASE UNIT under its opcode. -/
theorem controlSound_acceptUnit {op : BitVec 4} {s : State} (hs : ControlSound s) (hb : s.busy = false)
    (hop : 7 ≤ op.toNat ∧ op.toNat ≤ 12) : ControlSound { accept op s with phase := .unit } :=
  controlSound_of_flags_clear (hs.quiet hb).1 (hs.quiet hb).2 hs.progress hs.headerIndex (by simp) (fun _ => hop)
    (by simp)

theorem controlSound_refuse {s : State} (hs : ControlSound s) : ControlSound (refuse s) :=
  controlSound_of_controlFields hs rfl

/-- What an accepted command leaves has a sound control part. -/
theorem controlSound_accepted (i : Instr) {s : State} (hs : ControlSound s) (hb : s.busy = false) :
    ControlSound (accepted i s) := by
  have acc (op : BitVec 4) : ControlSound (accept op s) := controlSound_accept op hs hb
  cases i
  case xfer | xfer16 | xfer32 | sendd | sendu | delay => exact controlSound_acceptUnit hs hb (by decide)
  case reservedD | reservedE => exact controlSound_refuse hs
  case romBuild =>
    apply buildThen_spec (motive := ControlSound)
    case rejected => exact fun e _ => controlSound_raise e hs.progress hs.headerIndex
    case built => exact fun _ => controlSound_of_controlFields (acc 0x6#4) rfl
  case upload =>
    apply buildThen_spec (motive := ControlSound)
    case rejected => exact fun e _ => controlSound_raise e hs.progress hs.headerIndex
    case built =>
      exact fun _ => controlSound_of_plain_phase rfl rfl rfl (by simp [startPhases]) rfl (by simp [startPhases])
  all_goals exact controlSound_of_controlFields (acc _) rfl

/-- Every instruction keeps the control part. -/
theorem controlSound_exec {i : Instr} {s t : State} (hs : ControlSound s) (h : exec i s = .next t) :
    ControlSound t := by
  rcases exec_next_cases h with ⟨-, hb, rfl⟩ | ⟨-, -, rfl⟩ | ⟨-, hp, hc, rfl⟩ | ⟨d, -, -, -, rfl⟩ | ⟨hp, hw, rfl⟩
  case inl => exact controlSound_accepted i hs hb
  case inr.inl => exact controlSound_refuse hs
  case inr.inr.inl =>
    have hx : s.xhalf = false := by
      rw [Bool.eq_false_iff]
      exact fun hx => (hs.inFlight hx).2 hp hc
    exact controlSound_movedTo .idle (controlSound_delayEnds s.opd hs) hx rfl (by simp [hp]) (by decide) rfl
  case inr.inr.inr.inl => exact controlSound_delayEnds d hs
  case inr.inr.inr.inr =>
    exact controlSound_inPlace_transfer hs hp (hw.elim (wait_eq_false_of_no_pollDelay hs hp) id)

/-! ### Moves that run no instruction -/

/-- Everything a register write of the host does to the control part: REFUSED at most. -/
theorem controlFields_hostWrite (r : HostReg) (v : Word) (s : State) :
    controlFields (hostWrite r v s) = controlFields s := by
  unfold hostWrite
  split
  · split <;> rfl
  · cases r <;> rfl

theorem controlFields_hostRead (r : HostReg) (s : State) : controlFields (hostRead r s) = controlFields s := by
  rcases hostRead_cases r s with ⟨v, -, h⟩ | ⟨-, v, -, h⟩ <;> rw [h] <;> rfl

theorem controlFields_hostImage (k : Nat) (b : Byte) (s : State) :
    controlFields (hostImage k b s) = controlFields s := by
  unfold hostImage
  split_ifs <;> rfl

theorem controlFields_resetInput (w : Bool) (s : State) :
    controlFields (resetInput w s) = controlFields State.reset := by
  unfold resetInput
  split <;> rfl

/-- The control part of the reset state is sound. -/
theorem controlSound_reset : ControlSound State.reset :=
  controlSound_of_plain_phase rfl rfl rfl (by decide) rfl (by decide)

/-- Everything the block's turn without a word can do. -/
theorem turnWithoutWord_next {s t : State} (h : turnWithoutWord s = .next t) :
    (s.phase = .fixedDelay ∧ t = fixedDelayStep s) ∨
      (s.phase = .main ∧ s.nwords.toNat ≤ s.pidx.toNat ∧ t = leaveMain s) ∨
      (s.phase ≠ .fixedDelay ∧ s.phase ≠ .main ∧ t = s) := by
  unfold turnWithoutWord at h
  cases hp : s.phase <;> simp only [hp] at h
  case fixedDelay => exact .inl ⟨rfl, by cases h; rfl⟩
  case main =>
    split at h
    next => cases h
    next hlt => exact .inr (.inl ⟨rfl, by omega, by cases h; rfl⟩)
  all_goals exact .inr (.inr ⟨by simp, by simp, by cases h; rfl⟩)

theorem controlSound_turnWithoutWord {s t : State} (hs : ControlSound s) (h : turnWithoutWord s = .next t) :
    ControlSound t := by
  rcases turnWithoutWord_next h with ⟨hp, rfl⟩ | ⟨hp, -, rfl⟩ | ⟨-, -, rfl⟩
  case inl =>
    have hx : s.xhalf = false := by
      rw [Bool.eq_false_iff]
      exact fun hx => (hs.inFlight hx).1 hp
    exact controlSound_movedTo .length (controlSound_delayEnds Config.delayUs hs) hx rfl (by simp [hp]) (by decide) rfl
  case inr.inl =>
    have hw : s.wait = false := by
      rw [Bool.eq_false_iff]
      exact fun hw => by simpa [hp] using (hs.waiting hw).2
    exact {
      quiet := fun h => by cases h
      progress := hs.progress
      headerIndex := hs.headerIndex
      record := (err_eq_none hs (by simp [hp]) : s.err = ErrRecord.none)
      waiting := fun h => absurd hw (by simpa [leaveMain] using h)
      inFlight := fun _ => by simp [leaveMain]
      unitCommand := fun h => by cases h
      stabilizing := fun h => by cases h }
  case inr.inr => exact hs

/-- Every move that runs no instruction keeps the control part. -/
theorem controlSound_otherMove {m : Input} {s t : State} (hs : ControlSound s) (h : otherMove m s = .next t) :
    ControlSound t := by
  cases m with
  | turn => exact controlSound_turnWithoutWord hs h
  | hostWrite r v => cases h; exact controlSound_of_controlFields hs (controlFields_hostWrite r v s)
  | hostRead r => cases h; exact controlSound_of_controlFields hs (controlFields_hostRead r s)
  | hostImage k b => cases h; exact controlSound_of_controlFields hs (controlFields_hostImage k b s)
  | deliver x => cases h; exact controlSound_of_controlFields hs rfl
  | failNextWrite => cases h; exact controlSound_of_controlFields hs rfl
  | drainLink =>
    simp only [otherMove] at h
    split at h <;> cases h
    exact controlSound_of_controlFields hs rfl
  | reset w => cases h; exact controlSound_of_controlFields controlSound_reset (controlFields_resetInput w s)

/-- Settles O56: the step runs an instruction or makes a move without one, and both keep the control part. -/
theorem stepKeepsControlSound : Obligations.StepKeepsControlSound := by
  intro s t hs h
  have hpop : ControlSound s.pop := controlSound_of_controlFields hs rfl
  rcases step_next_cases h with ⟨i, -, hi⟩ | ⟨-, hm⟩
  · exact controlSound_exec hpop hi
  · exact controlSound_otherMove hpop hm

/-- Settles O59: no phase of an upload holds at reset, so the data part asks for nothing there. -/
theorem resetStateIsSound : Obligations.ResetStateIsSound where
  control := controlSound_reset
  upload := by constructor <;> decide
  memory := Memory.wf_reset

end Sys2Proof.StateProofs

namespace Sys2Proof.StateProofs

open Sys2Proof.Machine

/-! ### The frame of an instruction -/

theorem txStream_of_trace_append {s t : State} {o : Obs} (ho : o.txBytes = []) (h : t.trace = s.trace ++ [o]) :
    txStream t = txStream s := by
  simp [txStream, h, ho]

/-- The fields no instruction changes (R20). -/
def hostFields (s : State) : Memory × Word × Word × Half × Half × Word × List Input × Word :=
  (s.img, s.len, s.opa, s.opb, s.opc, s.opd, s.inputs, s.hostData)

/-- From `s` to `t` only the columns of `cs` change, and no field that belongs to the host. -/
structure Frame (cs : List Column) (s t : State) : Prop where
  columns : ∀ c : Column, c ∉ cs → c.unchanged s t
  host : hostFields t = hostFields s

theorem unchanged_refl (c : Column) (s : State) : c.unchanged s s := by
  cases c <;> simp [Column.unchanged]

theorem unchanged_trans {c : Column} {s t u : State} (h : c.unchanged s t) (h' : c.unchanged t u) :
    c.unchanged s u := by
  cases c <;> simp only [Column.unchanged] at *
  case cipher | link => exact ⟨h'.1.trans h.1, h'.2.trans h.2⟩
  case stores =>
    obtain ⟨hh, hp, hl, hn⟩ := h
    obtain ⟨hh', hp', hl', hn'⟩ := h'
    exact ⟨hh'.trans hh, hp'.trans hp, hl'.trans hl, hn'.trans hn⟩
  all_goals exact h'.trans h

theorem frame_refl (cs : List Column) (s : State) : Frame cs s s :=
  ⟨fun c _ => unchanged_refl c s, rfl⟩

theorem frame_trans {cs : List Column} {s t u : State} (h : Frame cs s t) (h' : Frame cs t u) : Frame cs s u :=
  ⟨fun c hc => unchanged_trans (h.columns c hc) (h'.columns c hc), h'.host.trans h.host⟩

theorem frame_mono {cs ds : List Column} {s t : State} (hcs : cs ⊆ ds) (h : Frame cs s t) : Frame ds s t :=
  ⟨fun c hc => h.columns c fun hm => hc (hcs hm), h.host⟩

/-- An operation that changes no column at all, whatever else the instruction may write. -/
theorem frame_of_nil {cs : List Column} {s t : State} (h : Frame [] s t) : Frame cs s t :=
  frame_mono (List.nil_subset cs) h

theorem frame_refuse (s : State) : Frame [] s (refuse s) :=
  ⟨fun c _ => by cases c <;> simp [Column.unchanged, txStream], rfl⟩

theorem frame_accept (op : BitVec 4) (s : State) : Frame [] s (accept op s) :=
  ⟨fun c _ => by cases c <;> simp [Column.unchanged, txStream], rfl⟩

/-- Entering PHASE UNIT, IDLE or another phase is in no column. -/
theorem frame_phase (p : Phase) (s : State) : Frame [] s { s with phase := p } :=
  ⟨fun c _ => by cases c <;> simp [Column.unchanged, txStream], rfl⟩

theorem frame_raise (k : ErrKind) (s : State) : Frame [] s (raise k s) :=
  ⟨fun c _ => by
    cases c <;> simp [Column.unchanged]
    exact txStream_of_trace_append rfl rfl, rfl⟩

theorem frame_delayEnds (us : Word) (s : State) : Frame [] s (delayEnds us s) :=
  ⟨fun c _ => by
    cases c <;> simp [Column.unchanged]
    exact txStream_of_trace_append rfl rfl, rfl⟩

/-- What the link operations do is in the column of the link. -/
theorem frame_link (s : State) (rx : List RxItem) (x f : Bool) (n : Nat) (tr : List Obs) :
    Frame [.link] s { s with rx := rx, xhalf := x, txFail := f, draws := n, trace := tr } :=
  ⟨fun c hc => by cases c <;> simp [Column.unchanged] at hc ⊢, rfl⟩

/-- The frame of a transfer is that of its response, with the link. -/
theorem frame_transfer {cs : List Column} (hl : .link ∈ cs) {w : Word} {k : Half → State → State} (s : State)
    (hk : ∀ r t, Frame cs t (k r t)) : Frame cs s (transfer w k s) := by
  have link (rx : List RxItem) (x f : Bool) (n : Nat) (tr : List Obs) :
      Frame cs s { s with rx := rx, xhalf := x, txFail := f, draws := n, trace := tr } :=
    frame_mono (by simpa using hl) (frame_link s rx x f n tr)
  apply transfer_spec (motive := Frame cs s)
  case wrote => exact fun _ _ => link s.rx true s.txFail s.draws _
  case frame => exact fun _ _ _ _ rest _ _ => frame_trans (link rest false s.txFail s.draws _) (hk _ _)
  case waiting => exact fun _ _ => frame_refl cs s
  case writeFailed =>
    exact fun _ _ => frame_trans (link s.rx s.xhalf false (s.draws + 1) _) (frame_of_nil (frame_raise _ _))
  case failed =>
    exact fun _ _ _ _ => frame_trans (link _ s.xhalf s.txFail (s.draws + 1) _) (frame_of_nil (frame_raise _ _))
  case ended =>
    exact fun _ _ _ _ => frame_trans (link _ s.xhalf s.txFail (s.draws + 1) _) (frame_of_nil (frame_raise _ _))

theorem frame_demand {cs : List Column} {w e m : Half} {k : Half → State → State} (r : Half) (t : State)
    (hk : Frame cs t (k r t)) : Frame cs t (demand w e m k r t) := by
  unfold demand
  split
  · exact hk
  · exact frame_of_nil (frame_raise _ t)

/-- A pending delay is in no column. -/
theorem frame_poll {cs : List Column} {e m : Half} {d : Word} {k : Half → State → State} (r : Half) (t : State)
    (hk : Frame cs t (k r t)) : Frame cs t (poll e m d k r t) := by
  unfold poll
  split_ifs
  · exact hk
  · exact frame_refl cs t
  · exact ⟨fun c _ => unchanged_refl c t, rfl⟩

theorem frame_discoverResponse (cs : List Column) (r : Half) (t : State) : Frame cs t (discoverResponse r t) := by
  unfold discoverResponse
  split_ifs <;> exact ⟨fun c _ => unchanged_refl c t, rfl⟩

theorem frame_stabilizeResponse (cs : List Column) (r : Half) (t : State) : Frame cs t (stabilizeResponse r t) := by
  unfold stabilizeResponse
  split_ifs <;> exact ⟨fun c _ => unchanged_refl c t, rfl⟩

/-- The indices and flags are in no column. -/
theorem frame_dataSent (cs : List Column) (t : State) : Frame cs t (dataSent t) := by
  unfold dataSent
  split <;> exact ⟨fun c _ => unchanged_refl c t, rfl⟩

theorem frame_uploadDone (cs : List Column) (t : State) : Frame cs t (uploadDone t) :=
  ⟨fun c _ => by
    cases c <;> simp [Column.unchanged, uploadDone]
    exact txStream_of_trace_append rfl rfl, rfl⟩

/-- What the response of an instruction does stays in the columns of the instruction. -/
theorem frame_onResponse (i : Instr) (s : State) (r : Half) (t : State) :
    Frame (mayWrite i) t (onResponse i s r t) := by
  have result : Frame [.link, .res] t (unitResult r t) :=
    ⟨fun c hc => by cases c <;> simp [Column.unchanged, unitResult] at hc ⊢, rfl⟩
  cases i <;> simp only [onResponse, mayWrite]
  case xfer | xfer16 => exact result
  case xfer32 => exact frame_of_nil (frame_phase .idle t)
  case sendd => exact frame_demand r t result
  case sendu => exact frame_poll r t result
  case wPoll =>
    split
    · exact frame_discoverResponse _ r t
    · exact frame_stabilizeResponse _ r t
  case wPr1 | wHdr => exact frame_demand r t ⟨fun c _ => unchanged_refl c t, rfl⟩
  case wHdrend | wPr2 | wHs => exact frame_demand r t (frame_of_nil (frame_phase _ t))
  case wPal =>
    exact frame_poll r t ⟨fun c hc => by cases c <;> simp [Column.unchanged, recordSeed] at hc ⊢, rfl⟩
  case wLen =>
    exact frame_demand r t
      ⟨fun c hc => by cases c <;> simp [Column.unchanged, startMain, cipherStart] at hc ⊢, rfl⟩
  case wData => exact frame_dataSent _ t
  case wCrcreq => exact frame_poll r t ⟨fun c _ => unchanged_refl c t, rfl⟩
  case wCrcgo =>
    exact frame_demand r t ⟨fun c hc => by cases c <;> simp [Column.unchanged, sealCrc] at hc ⊢, rfl⟩
  case wCrc => exact frame_demand r t (frame_uploadDone _ t)
  all_goals exact frame_refl _ t

/-- The cipher advances before a data word only. -/
theorem frame_beforeTransfer (i : Instr) (s : State) : Frame (mayWrite i) s (beforeTransfer i s) := by
  rcases beforeTransfer_cases i s with ⟨h, -⟩ | ⟨h, -, d, rfl⟩ <;> rw [h]
  · exact frame_refl _ s
  · exact ⟨fun c hc => by cases c <;> simp [Column.unchanged, mayWrite] at hc ⊢, rfl⟩

theorem link_mem_mayWrite {i : Instr} {s : State} (h : inPlace i s = true) : .link ∈ mayWrite i := by
  cases i <;> simp [inPlace] at h <;> simp [mayWrite]

/-- The views and the CRC of the image are in the columns of ROM.BUILD (R170). -/
theorem frame_loadImage (s : State) : Frame [.crc, .stores] s (loadImage s) :=
  ⟨fun c hc => by cases c <;> simp [Column.unchanged, loadImage, txStream] at hc ⊢, rfl⟩

theorem frame_startPhases (cs : List Column) (s : State) : Frame cs s (startPhases s) :=
  ⟨fun c _ => unchanged_refl c s, rfl⟩

theorem frame_buildThen {k : State → State} (s : State) (hk : ∀ t, Frame [.crc, .stores] t (k t)) :
    Frame [.crc, .stores] s (buildThen k s) := by
  apply buildThen_spec (motive := Frame [.crc, .stores] s)
  case rejected => exact fun e _ => frame_of_nil (frame_raise e s)
  case built => exact fun _ => frame_trans (frame_loadImage s) (hk _)

/-- What an accepted command does stays in the columns of the command. -/
theorem frame_accepted (i : Instr) (s : State) : Frame (mayWrite i) s (accepted i s) := by
  have acc (op : BitVec 4) : Frame (mayWrite i) s (accept op s) := frame_of_nil (frame_accept op s)
  cases i
  case crcNew | crcUpdate | crcSum16 | ciphNew | ciphEnc =>
    exact ⟨fun c hc => by
      cases c <;> simp [Column.unchanged, mayWrite, accepted, cipherStart, txStream] at hc ⊢, rfl⟩
  case romBuild => exact frame_trans (acc _) (frame_buildThen _ (frame_refl _))
  case upload => exact frame_trans (acc _) (frame_buildThen _ (frame_startPhases _))
  case xfer | xfer16 | xfer32 | sendd | sendu | delay => exact frame_trans (acc _) (frame_of_nil (frame_phase _ _))
  case reservedD | reservedE => exact frame_of_nil (frame_refuse s)
  all_goals exact acc _

/-- Every instruction stays in its columns. -/
theorem frame_exec {i : Instr} {s t : State} (h : exec i s = .next t) : Frame (mayWrite i) s t := by
  rcases exec_next_cases h with ⟨-, -, rfl⟩ | ⟨-, -, rfl⟩ | ⟨-, -, -, rfl⟩ | ⟨d, -, -, -, rfl⟩ | ⟨hp, -, rfl⟩
  case inl => exact frame_accepted i s
  case inr.inl => exact frame_of_nil (frame_refuse s)
  case inr.inr.inl => exact frame_of_nil (frame_trans (frame_delayEnds s.opd s) (frame_phase .idle _))
  case inr.inr.inr.inl => exact frame_of_nil (frame_delayEnds d s)
  case inr.inr.inr.inr =>
    exact frame_trans (frame_beforeTransfer i s) (frame_transfer (link_mem_mayWrite hp) _ (frame_onResponse i s))

/-- Settles O42: the frame of every instruction, whose image and operands are equal outright. -/
theorem instructionsWriteOnlyTheirColumns : Obligations.InstructionsWriteOnlyTheirColumns := by
  intro i s t h
  obtain ⟨hcols, hhost⟩ := frame_exec h
  simp only [hostFields, Prod.mk.injEq] at hhost
  obtain ⟨himg, hrest⟩ := hhost
  exact ⟨hcols, fun a => by rw [himg], hrest⟩

/-! ### The order of the phases -/

/-- What a running instruction may do to PHASE: keep it, end in ERROR, end a unit command, or move on by one. -/
def PhaseMove (p q : Phase) : Prop :=
  q = p ∨ q = .error ∨ (p = .unit ∧ q = .idle) ∨
    (1 ≤ p.code.toNat ∧ p.code.toNat ≤ 12 ∧ q.code.toNat = p.code.toNat + 1)

theorem phaseMove_refl (p : Phase) : PhaseMove p p := .inl rfl

theorem phaseMove_error (p : Phase) : PhaseMove p .error := .inr (.inl rfl)

/-- The end of a unit command (R204). -/
theorem phaseMove_unitEnds {p q : Phase} (hp : p = .unit) (hq : q = .idle) : PhaseMove p q :=
  .inr (.inr (.inl ⟨hp, hq⟩))

/-- The next phase of an upload. -/
theorem phaseMove_succ {p q : Phase} (p₀ q₀ : Phase) (hp : p = p₀) (hq : q = q₀)
    (h : 1 ≤ p₀.code.toNat ∧ p₀.code.toNat ≤ 12 ∧ q₀.code.toNat = p₀.code.toNat + 1) : PhaseMove p q := by
  subst hp hq
  exact .inr (.inr (.inr h))

/-- PHASE in a transfer moves as it does with the response. -/
theorem phaseMove_transfer {w : Word} {k : Half → State → State} {s : State}
    (hk : ∀ r rx tr, PhaseMove s.phase (k r { s with rx := rx, xhalf := false, trace := tr }).phase) :
    PhaseMove s.phase (transfer w k s).phase := by
  apply transfer_spec (motive := fun t => PhaseMove s.phase t.phase)
  case wrote => exact fun _ _ => phaseMove_refl _
  case frame => exact fun _ _ _ _ _ _ _ => hk _ _ _
  case waiting => exact fun _ _ => phaseMove_refl _
  case writeFailed => exact fun _ _ => phaseMove_error _
  case failed => exact fun _ _ _ _ => phaseMove_error _
  case ended => exact fun _ _ _ _ => phaseMove_error _

theorem phaseMove_demand {w e m r : Half} {k : Half → State → State} {t : State}
    (hk : PhaseMove t.phase (k r t).phase) : PhaseMove t.phase (demand w e m k r t).phase := by
  unfold demand
  split
  · exact hk
  · exact phaseMove_error _

theorem phaseMove_poll {e m r : Half} {d : Word} {k : Half → State → State} {t : State}
    (hk : PhaseMove t.phase (k r t).phase) : PhaseMove t.phase (poll e m d k r t).phase := by
  unfold poll
  split_ifs
  · exact hk
  · exact phaseMove_refl _
  · exact phaseMove_refl _

theorem phaseMove_discoverResponse (r : Half) {t : State} (hp : t.phase = .discover) :
    PhaseMove t.phase (discoverResponse r t).phase := by
  have next : PhaseMove t.phase .stabilize := phaseMove_succ .discover .stabilize hp rfl (by decide)
  have same := phaseMove_refl t.phase
  unfold discoverResponse
  split_ifs <;> assumption

theorem phaseMove_stabilizeResponse (r : Half) {t : State} (hp : t.phase = .stabilize) :
    PhaseMove t.phase (stabilizeResponse r t).phase := by
  have next : PhaseMove t.phase .pr1 := phaseMove_succ .stabilize .pr1 hp rfl (by decide)
  have same := phaseMove_refl t.phase
  unfold stabilizeResponse
  split_ifs <;> assumption

theorem phaseMove_dataSent {t : State} (hp : t.phase = .main) : PhaseMove t.phase (dataSent t).phase := by
  unfold dataSent
  split
  · exact phaseMove_succ .main .prepCrc hp rfl (by decide)
  · exact phaseMove_refl _

/-- A response moves PHASE on by at most one. -/
theorem phaseMove_onResponse {i : Instr} {s t : State} (r : Half) (h : inPlace i t = true) :
    PhaseMove t.phase (onResponse i s r t).phase := by
  cases i <;> simp [inPlace] at h <;> simp only [onResponse]
  case xfer | xfer16 | xfer32 => exact phaseMove_unitEnds h.1 rfl
  case sendd => exact phaseMove_demand (phaseMove_unitEnds h.1 rfl)
  case sendu => exact phaseMove_poll (phaseMove_unitEnds h.1 rfl)
  case wPoll =>
    split
    next hp => exact phaseMove_discoverResponse r hp
    next hp => exact phaseMove_stabilizeResponse r (h.resolve_left hp)
  case wPr1 => exact phaseMove_demand (phaseMove_succ .pr1 .headers h rfl (by decide))
  case wHdr => exact phaseMove_demand (phaseMove_refl _)
  case wHdrend => exact phaseMove_demand (phaseMove_succ .headers .pr2 h.1 rfl (by decide))
  case wPr2 => exact phaseMove_demand (phaseMove_succ .pr2 .palette h rfl (by decide))
  case wPal => exact phaseMove_poll (phaseMove_succ .palette .handshake h rfl (by decide))
  case wHs => exact phaseMove_demand (phaseMove_succ .handshake .fixedDelay h rfl (by decide))
  case wLen => exact phaseMove_demand (phaseMove_succ .length .main h rfl (by decide))
  case wData => exact phaseMove_dataSent h.1
  case wCrcreq => exact phaseMove_poll (phaseMove_refl _)
  case wCrcgo => exact phaseMove_demand (phaseMove_succ .prepCrc .sendCrc h.1 rfl (by decide))
  case wCrc => exact phaseMove_demand (phaseMove_succ .sendCrc .done h rfl (by decide))

theorem phase_beforeTransfer (i : Instr) (s : State) : (beforeTransfer i s).phase = s.phase := by
  rcases beforeTransfer_cases i s with ⟨h, -⟩ | ⟨h, -⟩ <;> rw [h]
  rfl

/-- Every instruction of a busy block moves PHASE on by at most one. -/
theorem phaseMove_exec {i : Instr} {s t : State} (hb : s.busy = true) (h : exec i s = .next t) :
    PhaseMove s.phase t.phase := by
  rcases exec_next_cases h with ⟨-, hi, rfl⟩ | ⟨-, -, rfl⟩ | ⟨-, hp, -, rfl⟩ | ⟨d, -, -, -, rfl⟩ | ⟨hp, -, rfl⟩
  case inl => rw [hb] at hi; cases hi
  case inr.inl => exact phaseMove_refl _
  case inr.inr.inl => exact phaseMove_unitEnds hp rfl
  case inr.inr.inr.inl => exact phaseMove_refl _
  case inr.inr.inr.inr =>
    rw [← phase_beforeTransfer i s]
    have hplace : inPlace i (beforeTransfer i s) = true := (inPlace_beforeTransfer i i s).trans hp
    exact phaseMove_transfer fun r rx tr => phaseMove_onResponse r ((inPlace_readDone i _ rx tr).trans hplace)

theorem phase_of_controlFields {s t : State} (h : controlFields t = controlFields s) : t.phase = s.phase :=
  congrArg Prod.fst h

/-- A move that runs no instruction keeps PHASE, unless it is the end of phase 8 or 10 or the reset input. -/
theorem phase_otherMove {m : Input} {s t : State} (h : otherMove m s = .next t) (hr : ∀ w, m ≠ .reset w) :
    t.phase = s.phase ∨ (s.phase = .fixedDelay ∧ t.phase = .length) ∨ (s.phase = .main ∧ t.phase = .prepCrc) := by
  cases m with
  | turn =>
    rcases turnWithoutWord_next h with ⟨hp, rfl⟩ | ⟨hp, -, rfl⟩ | ⟨-, -, rfl⟩
    · exact .inr (.inl ⟨hp, rfl⟩)
    · exact .inr (.inr ⟨hp, rfl⟩)
    · exact .inl rfl
  | hostWrite r v => cases h; exact .inl (phase_of_controlFields (controlFields_hostWrite r v s))
  | hostRead r => cases h; exact .inl (phase_of_controlFields (controlFields_hostRead r s))
  | hostImage k b => cases h; exact .inl (phase_of_controlFields (controlFields_hostImage k b s))
  | deliver x => cases h; exact .inl rfl
  | failNextWrite => cases h; exact .inl rfl
  | drainLink =>
    simp only [otherMove] at h
    split at h <;> cases h
    exact .inl rfl
  | reset w => exact absurd rfl (hr w)

/-- While the block is busy PHASE moves on by at most one, ends in ERROR or ends a unit command. -/
theorem phaseMove_step {s t : State} (h : step s = .next t) (hr : ∀ w, s.nextMove ≠ .reset w) (hb : s.busy = true) :
    PhaseMove s.phase t.phase := by
  rcases step_next_cases h with ⟨i, -, hi⟩ | ⟨-, hm⟩
  · exact phaseMove_exec (s := s.pop) hb hi
  · rcases phase_otherMove hm hr with hp | ⟨hp, ht⟩ | ⟨hp, ht⟩
    · exact .inl hp
    · exact phaseMove_succ .fixedDelay .length hp ht (by decide)
    · exact phaseMove_succ .main .prepCrc hp ht (by decide)

/-- An idle block has no instruction of its own. -/
theorem blockInstr_of_idle {s : State} (hb : s.busy = false) : blockInstr s = none := by
  unfold State.busy at hb
  unfold blockInstr
  cases hp : s.phase <;> simp [hp, Phase.isBusy] at hb ⊢

/-- While the block is not busy only a write to `CMD` runs an instruction. -/
theorem nextMove_of_nextInstr_idle {s : State} {i : Instr} (hb : s.busy = false) (h : nextInstr s = some i) :
    ∃ v, s.nextMove = .hostWrite .cmd v := by
  unfold nextInstr at h
  cases hm : s.nextMove with
  | turn => simp [hm, blockInstr_of_idle hb] at h
  | hostWrite r v =>
    rw [hm] at h
    by_cases hr : r = .cmd
    · exact ⟨v, by rw [hr]⟩
    · simp [hr] at h
  | _ => simp [hm] at h

/-- A built image leaves PHASE to what follows; a refused size ends in ERROR. -/
theorem phase_buildThen (k : State → State) (s : State) :
    (buildThen k s).phase = .error ∨ (buildThen k s).phase = (k (loadImage s)).phase := by
  apply buildThen_spec (motive := fun t => t.phase = .error ∨ t.phase = (k (loadImage s)).phase)
  case rejected => exact fun _ _ => .inl rfl
  case built => exact fun _ => .inr rfl

/-- The phases an accepted command leads to; a reserved opcode leaves PHASE alone. -/
theorem phase_accepted (i : Instr) (s : State) :
    (accepted i s).phase = s.phase ∨ (accepted i s).phase = .idle ∨ (accepted i s).phase = .discover ∨
      (accepted i s).phase = .unit ∨ (accepted i s).phase = .error := by
  cases i
  case reservedD | reservedE => exact .inl rfl
  case xfer | xfer16 | xfer32 | sendd | sendu | delay => exact .inr (.inr (.inr (.inl rfl)))
  case romBuild =>
    rcases phase_buildThen id (accept 0x6#4 s) with h | h
    · exact .inr (.inr (.inr (.inr h)))
    · exact .inr (.inl h)
  case upload =>
    rcases phase_buildThen startPhases (accept 0xF#4 s) with h | h
    · exact .inr (.inr (.inr (.inr h)))
    · exact .inr (.inr (.inl h))
  all_goals exact .inr (.inl rfl)

/-- An instruction that a block which is not busy runs is an accepted command. -/
theorem exec_idle_eq_accepted {i : Instr} {s t : State} (hb : s.busy = false) (h : exec i s = .next t) :
    t = accepted i s := by
  have notBusy {P : Prop} (hs : s.busy = true) : P := by rw [hb] at hs; cases hs
  rcases exec_next_cases h with ⟨-, -, ht⟩ | ⟨-, hs, -⟩ | ⟨-, hp, -⟩ | ⟨d, hp, -⟩ | ⟨hp, -⟩
  · exact ht
  · exact notBusy hs
  · exact notBusy (by simp [State.busy, Phase.isBusy, hp])
  · exact notBusy (transferSite_of_inPlace hp).1
  · exact notBusy (transferSite_of_inPlace hp).1

/-- While the block is not busy PHASE changes through a command only. -/
theorem phase_step_idle {s t : State} (h : step s = .next t) (hr : ∀ w, s.nextMove ≠ .reset w) (hb : s.busy = false) :
    t.phase = s.phase ∨ ((∃ v : Word, s.nextMove = .hostWrite .cmd v) ∧
      (t.phase = .idle ∨ t.phase = .discover ∨ t.phase = .unit ∨ t.phase = .error)) := by
  rcases step_next_cases h with ⟨i, hn, hi⟩ | ⟨-, hm⟩
  · rw [exec_idle_eq_accepted (s := s.pop) hb hi]
    exact (phase_accepted i s.pop).imp_right fun hp => ⟨nextMove_of_nextInstr_idle hb hn, hp⟩
  · have hne (p : Phase) (hp : p.isBusy = true) : s.phase ≠ p := by
      rintro rfl
      rw [State.busy, hp] at hb
      cases hb
    rcases phase_otherMove hm hr with hp | ⟨hp, -⟩ | ⟨hp, -⟩
    · exact .inl hp
    · exact absurd hp (hne _ rfl)
    · exact absurd hp (hne _ rfl)

theorem busy_of_uploadCode {s : State} (h1 : 1 ≤ s.phase.code.toNat) (h12 : s.phase.code.toNat ≤ 12) :
    s.busy = true := by
  unfold State.busy
  cases hp : s.phase <;> simp [hp, Phase.code, Phase.isBusy] at h1 h12 ⊢

/-- Settles O43: a busy block moves on by one phase at most, an idle one through a command only. -/
theorem phasesAdvanceStrictlyInOrder : Obligations.PhasesAdvanceStrictlyInOrder := by
  intro s t h hr
  refine ⟨fun h1 h12 => ?_, fun hu => ?_, phase_step_idle h hr⟩
  · rcases phaseMove_step h hr (busy_of_uploadCode h1 h12) with hp | hp | ⟨hp, -⟩ | ⟨-, -, hp⟩
    · exact .inl hp
    · exact .inr (.inr hp)
    · rw [hp] at h12
      exact absurd h12 (by decide)
    · exact .inr (.inl hp)
  · have hb : s.busy = true := by simp [State.busy, Phase.isBusy, hu]
    rcases phaseMove_step h hr hb with hp | hp | ⟨-, hp⟩ | ⟨-, h12, -⟩
    · exact .inl (hp.trans hu)
    · exact .inr (.inr hp)
    · exact .inr (.inl hp)
    · rw [hu] at h12
      exact absurd h12 (by decide)

end Sys2Proof.StateProofs

namespace Sys2Proof.StateProofs

open Sys2Proof.Machine

/-! ### The move at the head of the schedule -/

theorem nextMove_of_inputs {s : State} {m : Input} {l : List Input} (h : s.inputs = m :: l) : s.nextMove = m := by
  simp [State.nextMove, h]

theorem pop_of_inputs {s : State} {m : Input} {l : List Input} (h : s.inputs = m :: l) :
    s.pop = { s with inputs := l } := by
  simp [State.pop, h]

theorem nextInstr_of_turn {s : State} (h : s.nextMove = .turn) : nextInstr s = blockInstr s := by
  rw [nextInstr, h]

/-- The moves that never run an instruction: all but the block's turn and a write to `CMD`. -/
def runsNoInstr : Input → Bool
  | .turn => false
  | .hostWrite r _ => decide (r ≠ .cmd)
  | .hostRead _ | .hostImage _ _ | .deliver _ | .failNextWrite | .drainLink | .reset _ => true

theorem nextInstr_eq_none {s : State} (h : runsNoInstr s.nextMove = true) : nextInstr s = none := by
  unfold nextInstr
  cases hm : s.nextMove with
  | turn => simp [hm, runsNoInstr] at h
  | hostWrite r v =>
    have hr : r ≠ .cmd := by simpa [hm, runsNoInstr] using h
    simp [hr]
  | _ => rfl

/-- A step that makes a move without an instruction. -/
theorem step_otherMove {s : State} {m : Input} {l : List Input} (h : s.inputs = m :: l)
    (hm : runsNoInstr m = true) : step s = otherMove m { s with inputs := l } := by
  have hn : nextInstr s = none := nextInstr_eq_none (by rwa [nextMove_of_inputs h])
  rw [step_of_none hn, otherStep, nextMove_of_inputs h, pop_of_inputs h]

/-! ### Where the model stops -/

/-- A word the sequencer is at is in its place. -/
theorem inPlace_of_blockInstr {s : State} {i : Instr} (h : blockInstr s = some i) (hp : s.phase ≠ .unit) :
    inPlace i s = true := by
  unfold blockInstr at h
  cases hph : s.phase <;> simp only [hph] at h hp
  case unit => exact absurd rfl hp
  case headers =>
    split at h
    next hi => cases h; simpa [inPlace, hph] using hi
    next hi => cases h; simpa [inPlace, hph] using hi
  case main =>
    split at h
    next hi =>
      obtain ⟨src, -, rfl⟩ := Option.map_eq_some_iff.1 h
      simpa [inPlace, hph] using hi
    next => cases h
  case prepCrc =>
    split at h
    next hs => cases h; simpa [inPlace, hph] using hs
    next hs => cases h; simpa [inPlace, hph] using hs
  all_goals cases h <;> simp [inPlace, hph]

/-- A command never stops the machine. -/
theorem exec_command_next {i : Instr} (hi : i.opcode?.isSome = true) (s : State) : ∃ t, exec i s = .next t := by
  cases i <;> simp [Instr.opcode?] at hi <;> exact ⟨_, rfl⟩

/-- An instruction in its place never stops the machine. -/
theorem exec_inPlace_next {i : Instr} {s : State} (h : inPlace i s = true) : ∃ t, exec i s = .next t := by
  cases hd : pollDelay i s with
  | none => exact ⟨_, exec_inPlace_transfer h (.inl hd)⟩
  | some d =>
    cases hw : s.wait with
    | true => exact ⟨_, exec_inPlace_delay h hd hw⟩
    | false => exact ⟨_, exec_inPlace_transfer h (.inr hw)⟩

theorem opcode_decodeOpcode (op : BitVec 4) : (decodeOpcode op).opcode?.isSome = true := by
  revert op
  decide

theorem inPlace_pop (i : Instr) (s : State) : inPlace i s.pop = inPlace i s := by
  cases i <;> rfl

/-- What the block fetches never stops the machine. -/
theorem exec_nextInstr_next {s : State} {i : Instr} (h : nextInstr s = some i) : ∃ t, exec i s.pop = .next t := by
  unfold nextInstr at h
  cases hm : s.nextMove with
  | turn =>
    rw [hm] at h
    by_cases hp : s.phase = .unit
    · have hi : decodeOpcode s.cmd = i := by simpa [blockInstr, hp] using h
      exact exec_command_next (hi ▸ opcode_decodeOpcode s.cmd) _
    · exact exec_inPlace_next ((inPlace_pop i s).trans (inPlace_of_blockInstr h hp))
  | hostWrite r v =>
    simp only [hm] at h
    split at h <;> cases h
    exact exec_command_next (opcode_decodeOpcode _) _
  | _ => simp [hm] at h

/-- At an entry of P that holds no value the block has no instruction. -/
theorem blockInstr_main_absent {s : State} (hp : s.phase = .main) (h : s.p.length ≤ s.pidx.toNat) :
    blockInstr s = none := by
  simp [blockInstr, hp, List.getElem?_eq_none h]

/-- In phase 10 of a sound state the entry of P that is next holds a value (R47). -/
theorem blockInstr_main_isSome {s : State} (hs : UploadSound s) (hp : s.phase = .main) :
    (blockInstr s).isSome = true := by
  have hlt : s.pidx.toNat < s.nwords.toNat := hs.sending hp
  obtain ⟨-, -, -, -, hlen⟩ := hs.geometry (.inl (by rw [hp]; decide))
  simp [blockInstr, hp, hlt, List.getElem?_eq_getElem (hlen ▸ hlt)]

/-- The block's turn without a word never stops a sound state. -/
theorem turnWithoutWord_total {s : State} (h : s.phase ≠ .main) : ∃ t, turnWithoutWord s = .next t := by
  unfold turnWithoutWord
  cases hp : s.phase
  case main => exact absurd hp h
  all_goals exact ⟨_, rfl⟩

/-- A sound state answers every move but the drain of the link. -/
theorem step_total {s : State} (hs : UploadSound s) (hd : s.nextMove ≠ .drainLink) : ∃ t, step s = .next t := by
  cases hn : nextInstr s with
  | some i => rw [step_of_instr hn]; exact exec_nextInstr_next hn
  | none =>
    rw [step_of_none hn, otherStep]
    cases hm : s.nextMove with
    | turn =>
      refine turnWithoutWord_total (s := s.pop) fun hp => ?_
      have hsome := blockInstr_main_isSome hs hp
      rw [← nextInstr_of_turn hm, hn] at hsome
      cases hsome
    | drainLink => exact absurd hm hd
    | _ => exact ⟨_, rfl⟩

/-- Settles O55: the three stops by computation, and a step of a sound state for every other move. -/
theorem stopsAreThese : Obligations.StopsAreThese := by
  refine ⟨fun s l hb h => ?_, fun i s hi hp => exec_wire_outOfPlace hi hp, fun s hp hm hlt hle => ?_,
    fun s hs hd => ?_⟩
  · rw [step_otherMove h rfl]
    exact if_pos hb
  · have hn : nextInstr s = none := (nextInstr_of_turn hm).trans (blockInstr_main_absent hp hle)
    rw [step_of_none hn, otherStep, hm]
    simp [otherMove, turnWithoutWord, hp, hlt]
  · refine step_total hs fun hm => ?_
    cases hin : s.inputs with
    | nil => simp [State.nextMove, hin] at hm
    | cons m l =>
      rw [nextMove_of_inputs hin] at hm
      exact hd l (hm ▸ hin)

/-! ### Reset -/

/-- The reset input leaves the reset values and the link; the trace records at most the bytes of a write in progress. -/
theorem resetInput_eq (w : Bool) (s : State) :
    ∃ (d : Nat) (tr : List Obs), resetInput w s = resetBlock { s with draws := d, trace := tr } ∧
      (w = false ∨ pendingWord s = none → tr = s.trace) ∧
      ∀ x : Word, w = true → pendingWord s = some x →
        ∃ n : Nat, n ≤ 4 ∧ tr = s.trace ++ [.wrote ((frameBytes x).take n)] := by
  unfold resetInput
  cases w with
  | false => exact ⟨s.draws, s.trace, rfl, fun _ => rfl, fun _ h => by cases h⟩
  | true =>
    cases hp : pendingWord s with
    | none => exact ⟨s.draws, s.trace, rfl, fun _ => rfl, fun _ _ h => by cases h⟩
    | some x =>
      refine ⟨_, _, rfl, fun h => by simp at h, fun y _ h => ?_⟩
      cases h
      exact ⟨Config.freeCount s.draws % 5, by omega, rfl⟩

/-- Settles O51: from any state the reset input leaves the reset values, the stream and the schedule. -/
theorem resetAbandonsTheCommandAndKeepsTheLink : Obligations.ResetAbandonsTheCommandAndKeepsTheLink := by
  intro s w l h
  obtain ⟨d, tr, ht, hkept, hcut⟩ := resetInput_eq w { s with inputs := l }
  have hstep : step s = .next (resetInput w { s with inputs := l }) := step_otherMove h rfl
  rw [ht] at hstep
  exact ⟨_, hstep, rfl, rfl, rfl, rfl, rfl, rfl, rfl, rfl, rfl, rfl, rfl, rfl, rfl, rfl, hkept, hcut⟩

/-- Settles O52: the reset state is idle, so its turn has no word and changes nothing. -/
theorem resetStateHoldsTheGivenValues : Obligations.ResetStateHoldsTheGivenValues := by
  have hstep : step State.reset = otherStep State.reset := step_of_none rfl
  exact ⟨rfl, rfl, rfl, rfl, rfl, rfl, rfl, rfl, rfl, rfl, rfl, rfl, hstep⟩

/-! ### The host port -/

/-- While the block is busy a write to another register than `CMD` is ignored (R300). -/
theorem hostWrite_busy {r : HostReg} {v : Word} {s : State} (hb : s.busy = true) (hr : r ≠ .cmd) :
    hostWrite r v s = s := by
  simp [hostWrite, hb, hr]

/-- While it is not, the operands and LEN take what is written (R45). -/
theorem hostWrite_idle {r : HostReg} {v : Word} {s : State} (hb : s.busy = false) :
    hostWrite r v s =
      if r = .opa then { s with opa := v }
      else if r = .opb then { s with opb := v.setWidth 16 }
      else if r = .opc then { s with opc := v.setWidth 16 }
      else if r = .opd then { s with opd := v }
      else if r = .len then { s with len := v }
      else s := by
  cases r <;> simp [hostWrite, hb]

theorem low_half (v : Word) : v.setWidth 16 = v.extractLsb' 0 16 := by
  ext i hi
  simp

/-- Settles O48: such a write runs no instruction, and is ignored while the block is busy. -/
theorem hostWritesOwnedRegistersOnly : Obligations.HostWritesOwnedRegistersOnly := by
  intro s r v l h hr
  rw [step_otherMove h (by simpa [runsNoInstr] using hr), otherMove]
  cases hb : s.busy with
  | true => rw [hostWrite_busy (s := { s with inputs := l }) hb hr, if_pos rfl]
  | false => rw [hostWrite_idle (s := { s with inputs := l }) hb, if_neg Bool.false_ne_true, low_half]

/-- The flags of STAT as its three bits. -/
theorem stat_word (s : State) :
    s.stat.setWidth 32 = (if s.busy = true then 1#32 else 0#32) ||| (if s.phase = .done then 2#32 else 0#32)
      ||| (if s.phase = .error then 4#32 else 0#32) := by
  cases hp : s.phase <;> simp [State.stat, State.busy, Phase.isBusy, hp]

/-- Settles O54: phase by phase; that a write to STAT changes nothing is a case of O48. -/
theorem statusBitsFollowThePhase : Obligations.StatusBitsFollowThePhase := by
  intro s
  have hwrite (v : Word) (l : List Input) (h : s.inputs = .hostWrite .stat v :: l) :
      step s = .next { s with inputs := l } := by
    rw [hostWritesOwnedRegistersOnly s .stat v l h (by decide)]
    simp
  refine ⟨?_, ?_, ?_, ?_, hwrite⟩ <;> unfold State.stat <;> cases s.phase <;> decide

/-- The registers that are coherent at all times read as what they hold. -/
theorem hostView_of_coherent {r : HostReg} (s : State) (h : r.alwaysCoherent = true) : hostView r s = regValue r s := by
  simp [hostView, h]

theorem hostView_inputs (r : HostReg) (s : State) (l : List Input) :
    hostView r { s with inputs := l } = hostView r s := by
  cases r <;> rfl

/-- A read of a register with a value returns it and changes nothing else. -/
theorem step_hostRead {s : State} {r : HostReg} {l : List Input} {v : Word} (h : s.inputs = .hostRead r :: l)
    (hv : hostView r s = some v) : step s = .next { s with inputs := l, hostData := v } := by
  rw [step_otherMove h rfl, otherMove, hostRead, hostView_inputs, hv]

/-- Settles O50: a read returns what the register holds where it is coherent, and in an idle block. -/
theorem hostReadsReturnTheRegister : Obligations.HostReadsReturnTheRegister := by
  intro s r l h reads
  have always (hc : r.alwaysCoherent = true) {v : Word} (hv : regValue r s = some v) : reads v :=
    step_hostRead h ((hostView_of_coherent s hc).trans hv)
  refine ⟨?_, ?_, ?_, ?_, ?_, fun hb => ?_⟩
  · rintro rfl
    exact always rfl (congrArg some (stat_word s))
  · rintro rfl; exact always rfl rfl
  · rintro rfl; exact always rfl rfl
  · rintro rfl; exact always rfl rfl
  · rintro rfl; exact always rfl rfl
  have idle {v : Word} (hv : regValue r s = some v) : reads v := step_hostRead h ((hostView_of_idle r hb).trans hv)
  refine ⟨?_, ?_, ?_, ?_, ?_, ?_, ?_, ?_, ?_, ?_, ?_, ?_, ?_, ?_, ?_, ?_, ?_, ?_, ?_, ?_, ?_, ?_, ?_, ?_, ?_,
    fun i => ?_, fun j w => ?_⟩
  case refine_27 =>
    rintro rfl hj
    exact idle hj
  all_goals
    rintro rfl
    exact idle rfl

end Sys2Proof.StateProofs

namespace Sys2Proof.StateProofs

open Sys2Proof.Machine

/-! ### Two uploads with different leftovers -/

/-- The registers that an accepted UPLOAD leaves as they were (R221): the seed and what is made from it, the cipher, and
what belongs to the host and to unit commands. -/
structure Leftover where
  lcg : Word
  pos : Word
  seed : Byte
  hsb : Byte
  fcb : Byte
  opa : Word
  opb : Half
  opc : Half
  opd : Word
  res : Word
  hostData : Word

/-- The state with other leftovers. -/
def withLeftover (x : Leftover) (s : State) : State :=
  { s with
    lcg := x.lcg, pos := x.pos, seed := x.seed, hsb := x.hsb, fcb := x.fcb, opa := x.opa, opb := x.opb, opc := x.opc
    opd := x.opd, res := x.res, hostData := x.hostData }

@[simp] theorem withLeftover_phase (x : Leftover) (s : State) : (withLeftover x s).phase = s.phase := rfl
@[simp] theorem withLeftover_xhalf (x : Leftover) (s : State) : (withLeftover x s).xhalf = s.xhalf := rfl
@[simp] theorem withLeftover_rx (x : Leftover) (s : State) : (withLeftover x s).rx = s.rx := rfl
@[simp] theorem withLeftover_txFail (x : Leftover) (s : State) : (withLeftover x s).txFail = s.txFail := rfl
@[simp] theorem withLeftover_rms (x : Leftover) (s : State) : (withLeftover x s).rms = s.rms := rfl
@[simp] theorem withLeftover_stab (x : Leftover) (s : State) : (withLeftover x s).stab = s.stab := rfl
@[simp] theorem withLeftover_pidx (x : Leftover) (s : State) : (withLeftover x s).pidx = s.pidx := rfl
@[simp] theorem withLeftover_nwords (x : Leftover) (s : State) : (withLeftover x s).nwords = s.nwords := rfl

/-- The phases after the seed has been recorded (R229, R230). -/
def seedKnown (p : Phase) : Bool :=
  decide (7 ≤ p.code.toNat) && decide (p.code.toNat ≤ 12)

/-- The phases after the cipher has been started (R234). -/
def cipherKnown (p : Phase) : Bool :=
  decide (10 ≤ p.code.toNat) && decide (p.code.toNat ≤ 12)

/-- What the upload has recorded by now is no leftover. -/
def Recorded (x : Leftover) (s : State) : Prop :=
  (seedKnown s.phase = true → x.seed = s.seed ∧ x.hsb = s.hsb) ∧
    (cipherKnown s.phase = true → x.lcg = s.lcg ∧ x.pos = s.pos ∧ x.fcb = s.fcb)

/-- Two uploads that differ at most in leftovers not yet overwritten. -/
def Alike (s t : State) : Prop :=
  ∃ x : Leftover, t = withLeftover x s ∧ Recorded x s

/-- Before the seed is recorded, and after the upload, nothing need agree. -/
theorem recorded_of_unknown {x : Leftover} {s : State} (p : Phase) (hp : s.phase = p)
    (h : seedKnown p = false ∧ cipherKnown p = false) : Recorded x s := by
  obtain ⟨h1, h2⟩ := h
  exact ⟨fun h => (by rw [hp, h1] at h; cases h), fun h => (by rw [hp, h2] at h; cases h)⟩

/-- Moving on to a phase that asks for no more keeps what is recorded. -/
theorem recorded_movedTo {x : Leftover} {s : State} (p q : Phase) (hp : s.phase = p) (hx : Recorded x s)
    (h1 : seedKnown q = true → seedKnown p = true) (h2 : cipherKnown q = true → cipherKnown p = true) :
    Recorded x { s with phase := q } := by
  subst hp
  exact ⟨fun h => hx.1 (h1 h), fun h => hx.2 (h2 h)⟩

theorem alike_raise (k : ErrKind) {s t : State} (h : Alike s t) : Alike (raise k s) (raise k t) := by
  obtain ⟨x, rfl, -⟩ := h
  exact ⟨x, rfl, recorded_of_unknown .error rfl (by decide)⟩

/-- The end of a read half, on equal links. -/
theorem alike_readDone {s t : State} (h : Alike s t) (rx : List RxItem) (tr : List Obs) :
    Alike { s with rx := rx, xhalf := false, trace := tr } { t with rx := rx, xhalf := false, trace := tr } := by
  obtain ⟨x, rfl, hx⟩ := h
  exact ⟨x, rfl, hx⟩

theorem alike_delayEnds (us : Word) {s t : State} (h : Alike s t) : Alike (delayEnds us s) (delayEnds us t) := by
  obtain ⟨x, rfl, hx⟩ := h
  exact ⟨x, rfl, hx⟩

/-! ### Transfers of two uploads -/

theorem alike_writeHalf (w : Word) {s t : State} (h : Alike s t) : Alike (writeHalf w s) (writeHalf w t) := by
  obtain ⟨x, rfl, hx⟩ := h
  unfold writeHalf
  rw [withLeftover_txFail]
  split
  · exact alike_raise _ ⟨x, rfl, hx⟩
  · exact ⟨x, rfl, hx⟩

theorem alike_readHalf {k k' : Half → State → State} {s t : State} (h : Alike s t)
    (hk : ∀ r rx tr, Alike (k r { s with rx := rx, xhalf := false, trace := tr })
      (k' r { t with rx := rx, xhalf := false, trace := tr })) : Alike (readHalf k s) (readHalf k' t) := by
  obtain ⟨x, rfl, hx⟩ := h
  unfold readHalf
  rw [withLeftover_rx]
  cases linkRead s.rx with
  | frame c0 c1 c2 c3 rest => exact hk _ _ _
  | failed got rest => exact alike_raise _ ⟨x, rfl, hx⟩
  | ended got rest => exact alike_raise _ ⟨x, rfl, hx⟩
  | waiting => exact ⟨x, rfl, hx⟩

theorem alike_transfer (w : Word) {k k' : Half → State → State} {s t : State} (h : Alike s t)
    (hk : ∀ r rx tr, Alike (k r { s with rx := rx, xhalf := false, trace := tr })
      (k' r { t with rx := rx, xhalf := false, trace := tr })) : Alike (transfer w k s) (transfer w k' t) := by
  have hx : t.xhalf = s.xhalf := by
    obtain ⟨x, rfl, -⟩ := h
    rfl
  unfold transfer
  rw [hx]
  split
  · exact alike_readHalf h hk
  · exact alike_writeHalf w h

theorem alike_demand {w e m r : Half} {k : Half → State → State} {s t : State} (h : Alike s t)
    (hk : Alike (k r s) (k r t)) : Alike (demand w e m k r s) (demand w e m k r t) := by
  unfold demand
  split
  · exact hk
  · exact alike_raise _ h

theorem alike_poll {e m r : Half} {d : Word} {k : Half → State → State} {s t : State} (h : Alike s t)
    (hk : Alike (k r s) (k r t)) : Alike (poll e m d k r s) (poll e m d k r t) := by
  unfold poll
  split_ifs
  · exact hk
  · exact h
  · obtain ⟨x, rfl, hx⟩ := h
    exact ⟨x, rfl, hx⟩

/-! ### Responses of two uploads -/

theorem alike_discoverResponse (r : Half) {s t : State} (h : Alike s t) :
    Alike (discoverResponse r s) (discoverResponse r t) := by
  obtain ⟨x, rfl, hx⟩ := h
  have next : Alike { s with stab := 0#4, phase := .stabilize }
      { withLeftover x s with stab := 0#4, phase := .stabilize } :=
    ⟨x, rfl, recorded_of_unknown .stabilize rfl (by decide)⟩
  have seen : Alike { s with rms := true, wait := true } { withLeftover x s with rms := true, wait := true } :=
    ⟨x, rfl, hx⟩
  have again : Alike { s with wait := true } { withLeftover x s with wait := true } := ⟨x, rfl, hx⟩
  unfold discoverResponse
  rw [withLeftover_rms]
  split_ifs <;> assumption

theorem alike_stabilizeResponse (r : Half) {s t : State} (h : Alike s t) :
    Alike (stabilizeResponse r s) (stabilizeResponse r t) := by
  obtain ⟨x, rfl, hx⟩ := h
  unfold stabilizeResponse
  rw [withLeftover_stab]
  split_ifs
  · exact ⟨x, rfl, recorded_of_unknown .pr1 rfl (by decide)⟩
  · exact ⟨x, rfl, hx⟩
  · exact ⟨x, rfl, hx⟩

/-- From phase 6 on the seed is what the response said. -/
theorem alike_recordSeed (r : Half) {s t : State} (h : Alike s t) : Alike (recordSeed r s) (recordSeed r t) := by
  obtain ⟨x, rfl, -⟩ := h
  exact ⟨{ x with seed := r.setWidth 8, hsb := handshakeByte (r.setWidth 8) }, rfl, fun _ => ⟨rfl, rfl⟩,
    fun h => by cases h⟩

/-- From phase 9 on the cipher goes from the recorded seed. -/
theorem alike_startMain (r : Half) {s t : State} (h : Alike s t) (hp : s.phase = .length) :
    Alike (startMain r s) (startMain r t) := by
  obtain ⟨x, rfl, hx⟩ := h
  obtain ⟨hseed, hhsb⟩ := hx.1 (by rw [hp]; decide)
  refine ⟨{ x with lcg := cipherIv x.seed, pos := Config.posInit, fcb := r.setWidth 8 }, rfl,
    fun _ => ⟨hseed, hhsb⟩, fun _ => ⟨?_, rfl, rfl⟩⟩
  exact congrArg cipherIv hseed

theorem alike_leaveMain {s t : State} (h : Alike s t) (hp : s.phase = .main) : Alike (leaveMain s) (leaveMain t) := by
  obtain ⟨x, rfl, hx⟩ := h
  exact ⟨x, rfl, recorded_movedTo .main .prepCrc hp hx (by decide) (by decide)⟩

theorem alike_dataSent {s t : State} (h : Alike s t) (hp : s.phase = .main) : Alike (dataSent s) (dataSent t) := by
  obtain ⟨x, rfl, hx⟩ := h
  unfold dataSent
  rw [withLeftover_pidx, withLeftover_nwords]
  split
  · exact alike_leaveMain ⟨x, rfl, hx⟩ hp
  · exact ⟨x, rfl, hx⟩

/-- The seal is made of recorded bytes. -/
theorem alike_sealCrc {s t : State} (h : Alike s t) (hp : s.phase = .prepCrc) : Alike (sealCrc s) (sealCrc t) := by
  obtain ⟨x, rfl, hx⟩ := h
  obtain ⟨-, hhsb⟩ := hx.1 (by rw [hp]; decide)
  obtain ⟨-, -, hfcb⟩ := hx.2 (by rw [hp]; decide)
  refine ⟨x, ?_, recorded_movedTo .prepCrc .sendCrc hp hx (by decide) (by decide)⟩
  simp [sealCrc, withLeftover, hhsb, hfcb]

/-- An instruction of a running upload is a wire word. -/
theorem opcode_of_inPlace {i : Instr} {s : State} (h : inPlace i s = true) (hu : s.phase ≠ .unit) :
    i.opcode? = none := by
  cases i <;> simp [inPlace, hu] at h <;> rfl

/-- A response does the same in both uploads. -/
theorem alike_onResponse {i : Instr} {s₀ t₀ s t : State} (r : Half) (hi : i.opcode? = none)
    (hidx : t₀.hidx = s₀.hidx) (hp : inPlace i s = true) (h : Alike s t) :
    Alike (onResponse i s₀ r s) (onResponse i t₀ r t) := by
  have moved (p q : Phase) (hs : s.phase = p) (h1 : seedKnown q = true → seedKnown p = true)
      (h2 : cipherKnown q = true → cipherKnown p = true) : Alike { s with phase := q } { t with phase := q } := by
    obtain ⟨x, rfl, hx⟩ := h
    exact ⟨x, rfl, recorded_movedTo p q hs hx h1 h2⟩
  cases i <;> simp [Instr.opcode?] at hi <;> simp [inPlace] at hp <;> simp only [onResponse]
  case wPoll =>
    have hphase : t.phase = s.phase := by
      obtain ⟨x, rfl, -⟩ := h
      rfl
    rw [hphase]
    split
    · exact alike_discoverResponse r h
    · exact alike_stabilizeResponse r h
  case wPr1 =>
    apply alike_demand h
    obtain ⟨x, rfl, -⟩ := h
    exact ⟨x, rfl, recorded_of_unknown .headers rfl (by decide)⟩
  case wHdr =>
    rw [hidx]
    apply alike_demand h
    obtain ⟨x, rfl, hx⟩ := h
    exact ⟨x, rfl, hx⟩
  case wHdrend => exact alike_demand h (moved .headers .pr2 hp.1 (by decide) (by decide))
  case wPr2 => exact alike_demand h (moved .pr2 .palette hp (by decide) (by decide))
  case wPal => exact alike_poll h (alike_recordSeed r h)
  case wHs => exact alike_demand h (moved .handshake .fixedDelay hp (by decide) (by decide))
  case wLen => exact alike_demand h (alike_startMain r h hp)
  case wData => exact alike_dataSent h hp.1
  case wCrcreq =>
    apply alike_poll h
    obtain ⟨x, rfl, hx⟩ := h
    exact ⟨x, rfl, hx⟩
  case wCrcgo => exact alike_demand h (alike_sealCrc h hp.1)
  case wCrc =>
    apply alike_demand h
    obtain ⟨x, rfl, -⟩ := h
    exact ⟨x, rfl, recorded_of_unknown .done rfl (by decide)⟩

/-- In phase 10 both ciphers advance from the same registers. -/
theorem alike_beforeTransfer {i : Instr} {s t : State} (hp : inPlace i s = true) (h : Alike s t) :
    Alike (beforeTransfer i s) (beforeTransfer i t) := by
  cases i
  case wData d =>
    obtain ⟨x, rfl, hx⟩ := h
    have hmain : s.phase = .main := by simp [inPlace] at hp; exact hp.1
    obtain ⟨hlcg, hpos, hfcb⟩ := hx.2 (by rw [hmain]; decide)
    simp only [beforeTransfer]
    rw [withLeftover_xhalf]
    split
    · exact ⟨x, rfl, hx⟩
    · refine ⟨{ x with lcg := lcgNext x.lcg, pos := x.pos - Config.posStep }, rfl, hx.1, fun _ => ⟨?_, ?_, hfcb⟩⟩
      · exact congrArg lcgNext hlcg
      · exact congrArg (· - Config.posStep) hpos
  all_goals exact h

/-! ### Steps of two uploads -/

theorem inPlace_alike {i : Instr} {s t : State} (h : Alike s t) : inPlace i t = inPlace i s := by
  obtain ⟨x, rfl, -⟩ := h
  cases i <;> rfl

/-- A wire word does the same in both uploads. -/
theorem alike_exec {i : Instr} {s t s' : State} (h : Alike s t) (hi : i.opcode? = none) (hs : exec i s = .next s') :
    ∃ t', exec i t = .next t' ∧ Alike s' t' := by
  obtain ⟨hwait, hidx⟩ : t.wait = s.wait ∧ t.hidx = s.hidx := by
    obtain ⟨x, rfl, -⟩ := h
    exact ⟨rfl, rfl⟩
  have hpoll : pollDelay i t = pollDelay i s := by cases i <;> simp [Instr.opcode?] at hi <;> rfl
  have hword : sentWord i t = sentWord i s := by cases i <;> simp [Instr.opcode?] at hi <;> rfl
  rcases exec_next_cases hs with ⟨ho, -⟩ | ⟨ho, -⟩ | ⟨rfl, -⟩ | ⟨d, hp, hd, hw, rfl⟩ | ⟨hp, hw, rfl⟩
  · rw [hi] at ho; cases ho
  · rw [hi] at ho; cases ho
  · cases hi
  · exact ⟨_, exec_inPlace_delay ((inPlace_alike h).trans hp) (hpoll.trans hd) (hwait.trans hw), alike_delayEnds d h⟩
  · refine ⟨_, exec_inPlace_transfer ((inPlace_alike h).trans hp) (by rwa [hpoll, hwait]), ?_⟩
    rw [hword]
    have hbefore : Alike (beforeTransfer i s) (beforeTransfer i t) := alike_beforeTransfer hp h
    have hplace : inPlace i (beforeTransfer i s) = true := (inPlace_beforeTransfer i i s).trans hp
    refine alike_transfer _ hbefore fun r rx tr => alike_onResponse r hi hidx ?_ (alike_readDone hbefore rx tr)
    exact (inPlace_readDone i _ rx tr).trans hplace

/-- The moves that O46 lets the agents make while the upload runs. -/
def TransportMove (m : Input) : Prop :=
  m = .turn ∨ (∃ x : RxItem, m = .deliver x) ∨ m = .failNextWrite

theorem transportMove_nextMove {s : State} (h : ∀ m ∈ s.inputs, TransportMove m) : TransportMove s.nextMove := by
  unfold State.nextMove
  cases hin : s.inputs with
  | nil => exact .inl rfl
  | cons m l => exact h m (by simp [hin])

/-- The sequencer stands at the same word in both uploads: what the word is made of has been recorded. -/
theorem blockInstr_alike {s t : State} (h : Alike s t) (hu : s.phase ≠ .unit) : blockInstr t = blockInstr s := by
  obtain ⟨x, rfl, hseed, hcipher⟩ := h
  unfold blockInstr
  rw [withLeftover_phase]
  cases hp : s.phase <;> simp only [hp] at hseed hcipher
  case unit => exact absurd hp hu
  case handshake =>
    obtain ⟨-, hhsb⟩ := hseed rfl
    exact congrArg (fun b => some (Instr.wHs b)) hhsb
  case main =>
    obtain ⟨hlcg, hpos, -⟩ := hcipher rfl
    have hword (src : Word) : dataWord (withLeftover x s) src = dataWord s src := by
      simp [dataWord, withLeftover, hlcg, hpos]
    simp only [hword]
    rfl
  all_goals rfl

theorem alike_pop {s t : State} (h : Alike s t) : Alike s.pop t.pop := by
  obtain ⟨x, rfl, hx⟩ := h
  exact ⟨x, rfl, hx⟩

theorem nextMove_alike {s t : State} (h : Alike s t) : t.nextMove = s.nextMove := by
  obtain ⟨x, rfl, -⟩ := h
  rfl

/-- Of the moves of the transport only the block's turn runs an instruction. -/
theorem nextInstr_transport {s : State} (hm : TransportMove s.nextMove) :
    nextInstr s = if s.nextMove = .turn then blockInstr s else none := by
  unfold nextInstr
  rcases hm with hm | ⟨x, hm⟩ | hm <;> simp [hm]

/-- The block's turn without a word does the same in both uploads. -/
theorem alike_turnWithoutWord {s t s' : State} (h : Alike s t) (hs : turnWithoutWord s = .next s') :
    ∃ t', turnWithoutWord t = .next t' ∧ Alike s' t' := by
  have halike := h
  obtain ⟨x, rfl, hx⟩ := h
  rcases turnWithoutWord_next hs with ⟨hp, rfl⟩ | ⟨hp, hle, rfl⟩ | ⟨hp, hp', rfl⟩
  · refine ⟨fixedDelayStep (withLeftover x s), by simp only [turnWithoutWord, withLeftover_phase, hp], x, rfl, ?_⟩
    exact recorded_movedTo (s := delayEnds Config.delayUs s) .fixedDelay .length hp hx (by decide) (by decide)
  · refine ⟨leaveMain (withLeftover x s), ?_, alike_leaveMain halike hp⟩
    have hpidx : ¬(withLeftover x s).pidx.toNat < (withLeftover x s).nwords.toNat := Nat.not_lt.2 hle
    simp only [turnWithoutWord, withLeftover_phase, hp, if_neg hpidx]
  · refine ⟨withLeftover x s', ?_, halike⟩
    unfold turnWithoutWord
    rw [withLeftover_phase]
    cases hph : s'.phase
    case fixedDelay => exact absurd hph hp
    case main => exact absurd hph hp'
    all_goals rfl

/-- A step of the block or the transport does the same in both uploads. -/
theorem alike_step {s t s' : State} (h : Alike s t) (hu : s.phase ≠ .unit) (hm : TransportMove s.nextMove)
    (hs : step s = .next s') : ∃ t', step t = .next t' ∧ Alike s' t' := by
  have hmove : t.nextMove = s.nextMove := nextMove_alike h
  have hinstr : nextInstr t = nextInstr s := by
    rw [nextInstr_transport hm, nextInstr_transport (hmove ▸ hm), hmove, blockInstr_alike h hu]
  rcases step_next_cases hs with ⟨i, hn, hi⟩ | ⟨hn, ho⟩
  · rw [step_of_instr (hinstr.trans hn)]
    have hplace : inPlace i s = true := by
      rw [nextInstr_transport hm] at hn
      split at hn
      · exact inPlace_of_blockInstr hn hu
      · cases hn
    exact alike_exec (alike_pop h) (opcode_of_inPlace hplace hu) hi
  · rw [step_of_none (hinstr.trans hn), otherStep, hmove]
    rcases hm with hm | ⟨y, hm⟩ | hm <;> rw [hm] at ho ⊢
    · exact alike_turnWithoutWord (alike_pop h) ho
    · cases ho
      obtain ⟨x, rfl, hx⟩ := h
      exact ⟨_, rfl, x, rfl, hx⟩
    · cases ho
      obtain ⟨x, rfl, hx⟩ := h
      exact ⟨_, rfl, x, rfl, hx⟩

/-! ### Runs -/

theorem inputs_of_hostFields {s t : State} (h : hostFields t = hostFields s) : t.inputs = s.inputs := by
  simp only [hostFields, Prod.mk.injEq] at h
  obtain ⟨-, -, -, -, -, -, hin, -⟩ := h
  exact hin

/-- A step takes its move off the schedule. -/
theorem inputs_step {s t : State} (hm : TransportMove s.nextMove) (h : step s = .next t) :
    t.inputs = s.inputs.tail := by
  rcases step_next_cases h with ⟨i, -, hi⟩ | ⟨-, ho⟩
  · exact inputs_of_hostFields (frame_exec hi).host
  · rcases hm with hm | ⟨x, hm⟩ | hm <;> rw [hm] at ho
    · rcases turnWithoutWord_next ho with ⟨-, rfl⟩ | ⟨-, -, rfl⟩ | ⟨-, -, rfl⟩ <;> rfl
    · cases ho; rfl
    · cases ho; rfl

/-- Without a command PHASE never becomes UNIT. -/
theorem phase_ne_unit_step {s t : State} (hm : TransportMove s.nextMove) (hu : s.phase ≠ .unit)
    (h : step s = .next t) : t.phase ≠ .unit := by
  have hr (w : Bool) : s.nextMove ≠ .reset w := by
    rcases hm with hm | ⟨x, hm⟩ | hm <;> simp [hm]
  have hc (v : Word) : s.nextMove ≠ .hostWrite .cmd v := by
    rcases hm with hm | ⟨x, hm⟩ | hm <;> simp [hm]
  intro ht
  cases hb : s.busy with
  | true =>
    rcases phaseMove_step h hr hb with hp | hp | ⟨hp, -⟩ | ⟨-, h12, hp⟩
    · exact hu (hp.symm.trans ht)
    · rw [ht] at hp; cases hp
    · exact hu hp
    · have h15 : t.phase.code.toNat = 15 := by rw [ht]; rfl
      omega
  | false =>
    rcases phase_step_idle h hr hb with hp | ⟨⟨v, hv⟩, -⟩
    · exact hu (hp.symm.trans ht)
    · exact hc v hv

/-- A run goes on behind its first step. -/
theorem run_succ_of_step {k : Nat} {s s₁ : State} (h : step s = .next s₁) :
    Host.Core.run core (k + 1) s = Host.Core.run core k s₁ := by
  have hcore : core.step s = .next s₁ := h
  simp only [Host.Core.run, hcore]

/-- A run that answers a next state began with a step that did. -/
theorem exists_step_of_run {k : Nat} {s u : State} (h : Host.Core.run core (k + 1) s = .next u) :
    ∃ s₁ : State, step s = .next s₁ := by
  cases hs : core.step s with
  | next s₁ => exact ⟨s₁, hs⟩
  | fault r => simp [Host.Core.run, hs] at h
  | refused r => simp [Host.Core.run, hs] at h

/-- A relation of two blocks that every step keeps. -/
def KeptByStep (R : State → State → Prop) : Prop :=
  ∀ s t s' : State, R s t → step s = .next s' → ∃ t' : State, step t = .next t' ∧ R s' t'

/-- What every step keeps of two blocks every run keeps. -/
theorem run_simulates {R : State → State → Prop} (hR : KeptByStep R) (k : Nat) {s t u : State} (h : R s t)
    (hrun : Host.Core.run core k s = .next u) : ∃ u' : State, Host.Core.run core k t = .next u' ∧ R u u' := by
  induction k generalizing s t with
  | zero =>
    cases hrun
    exact ⟨t, rfl, h⟩
  | succ k ih =>
    obtain ⟨s₁, hs⟩ := exists_step_of_run hrun
    obtain ⟨t₁, ht, h₁⟩ := hR s t s₁ h hs
    rw [run_succ_of_step ht]
    exact ih h₁ ((run_succ_of_step hs).symm.trans hrun)

/-- Two blocks whose first steps lead into such a relation. -/
theorem run_simulates_after_step {R : State → State → Prop} (hR : KeptByStep R) {k : Nat} {s t s₁ t₁ u : State}
    (hs : step s = .next s₁) (ht : step t = .next t₁) (h : R s₁ t₁)
    (hrun : Host.Core.run core (k + 1) s = .next u) :
    ∃ u' : State, Host.Core.run core (k + 1) t = .next u' ∧ R u u' := by
  rw [run_succ_of_step ht]
  exact run_simulates hR k h ((run_succ_of_step hs).symm.trans hrun)

/-- Two uploads under way: alike, with only the transport to act. -/
def Running (s t : State) : Prop :=
  Alike s t ∧ s.phase ≠ .unit ∧ ∀ m ∈ s.inputs, TransportMove m

theorem running_kept : KeptByStep Running := by
  intro s t s' h hs
  obtain ⟨halike, hu, hl⟩ := h
  have hm := transportMove_nextMove hl
  obtain ⟨t', ht, h'⟩ := alike_step halike hu hm hs
  refine ⟨t', ht, h', phase_ne_unit_step hm hu hs, ?_⟩
  rw [inputs_step hm hs]
  exact fun m hmem => hl m (List.mem_of_mem_tail hmem)

/-- Two blocks whose upload was rejected: in ERROR, with what the outside sees equal. -/
structure Rejected (s t : State) : Prop where
  phase : s.phase = .error
  phase' : t.phase = .error
  trace : t.trace = s.trace
  err : t.err = s.err
  rx : t.rx = s.rx
  inputs : t.inputs = s.inputs
  moves : ∀ m ∈ s.inputs, TransportMove m

/-- What a move puts into the receive stream. -/
def delivered : Input → List RxItem
  | .deliver x => [x]
  | .turn | .hostWrite _ _ | .hostRead _ | .hostImage _ _ | .failNextWrite | .drainLink | .reset _ => []

/-- In ERROR the block takes no step of its own (R283); the transport goes on. -/
theorem step_error {s : State} (hp : s.phase = .error) (hm : TransportMove s.nextMove) :
    ∃ f : Bool, step s = .next { s.pop with rx := s.rx ++ delivered s.nextMove, txFail := f } := by
  have hb : s.busy = false := by rw [State.busy, hp]; rfl
  have hn : nextInstr s = none := by
    rw [nextInstr_transport hm, blockInstr_of_idle hb, ite_self]
  rw [step_of_none hn, otherStep]
  rcases hm with hm | ⟨x, hm⟩ | hm <;> rw [hm]
  · refine ⟨s.txFail, ?_⟩
    simp [otherMove, turnWithoutWord, hp, delivered, State.pop]
  · exact ⟨s.txFail, rfl⟩
  · exact ⟨true, by simp [otherMove, delivered]⟩

theorem rejected_kept : KeptByStep Rejected := by
  intro s t s' h hs
  have hmove : t.nextMove = s.nextMove := by rw [State.nextMove, State.nextMove, h.inputs]
  have hm : TransportMove s.nextMove := transportMove_nextMove h.moves
  obtain ⟨f, hs'⟩ := step_error h.phase hm
  obtain ⟨f', ht'⟩ := step_error h.phase' (hmove ▸ hm)
  rw [hs'] at hs
  cases hs
  refine ⟨_, ht', h.phase, h.phase', h.trace, h.err, ?_, ?_, ?_⟩
  · show t.rx ++ delivered t.nextMove = s.rx ++ delivered s.nextMove
    rw [hmove, h.rx]
  · exact congrArg List.tail h.inputs
  · exact fun m hmem => h.moves m (List.mem_of_mem_tail hmem)

/-- UPLOAD while the block is not busy (R220, R221). -/
theorem step_upload {s : State} {v : Word} {l : List Input} (hb : s.busy = false) (hv : v.setWidth 4 = 0xF#4)
    (hin : s.inputs = .hostWrite .cmd v :: l) :
    step s = .next (buildThen startPhases (accept 0xF#4 { s with inputs := l })) := by
  have hn := nextInstr_commandWrite (nextMove_of_inputs hin) hb
  rw [hv] at hn
  rw [step_of_instr hn, pop_of_inputs hin]
  exact exec_command_idle (i := .upload) rfl hb

/-- An image of an accepted size: the upload starts. -/
theorem step_upload_built {s : State} {v : Word} {l : List Input} (hb : s.busy = false) (hv : v.setWidth 4 = 0xF#4)
    (hin : s.inputs = .hostWrite .cmd v :: l) (hsize : sizeError s.len = none) :
    step s = .next (startPhases (loadImage (accept 0xF#4 { s with inputs := l }))) := by
  rw [step_upload hb hv hin]
  simp [buildThen, hsize]

/-- A wrong size is refused before anything is written (R176). -/
theorem step_upload_rejected {s : State} {v : Word} {l : List Input} {e : ErrKind} (hb : s.busy = false)
    (hv : v.setWidth 4 = 0xF#4) (hin : s.inputs = .hostWrite .cmd v :: l) (hsize : sizeError s.len = some e) :
    step s = .next (raise e (accept 0xF#4 { s with inputs := l })) := by
  rw [step_upload hb hv hin]
  simp [buildThen, hsize]

/-- What an accepted UPLOAD leaves depends on the image, its length and the link, but for the leftovers. -/
theorem alike_startUpload {s t : State} (hlen : s.len = t.len) (himg : s.img = t.img) (hrx : s.rx = t.rx)
    (htx : s.txFail = t.txFail) (htr : s.trace = t.trace) (hdr : s.draws = t.draws) (hin : s.inputs = t.inputs)
    (op : BitVec 4) : Alike (startPhases (loadImage (accept op s))) (startPhases (loadImage (accept op t))) := by
  refine ⟨⟨t.lcg, t.pos, t.seed, t.hsb, t.fcb, t.opa, t.opb, t.opc, t.opd, t.res, t.hostData⟩, ?_,
    recorded_of_unknown .discover rfl (by decide)⟩
  simp only [withLeftover, startPhases, loadImage, accept, hlen, himg, hrx, htx, htr, hdr, hin]

/-- Settles O46: after UPLOAD the two blocks are alike, or both rejected, and every step keeps it. -/
theorem uploadDependsOnlyOnImageAndLink : Obligations.UploadDependsOnlyOnImageAndLink := by
  intro s t v l k s' hbs hbt hv hins hint hl hlen himg hrx htx htr hdr hrun
  cases hsize : sizeError s.len with
  | none =>
    have hs := step_upload_built hbs hv hins hsize
    have ht := step_upload_built hbt hv hint (hlen ▸ hsize)
    have hstart : Running _ _ :=
      ⟨alike_startUpload (s := { s with inputs := l }) (t := { t with inputs := l }) hlen himg hrx htx htr hdr rfl
        0xF#4, by simp [startPhases], hl⟩
    obtain ⟨t', hrun', ⟨x, rfl, -⟩, -⟩ := run_simulates_after_step running_kept hs ht hstart hrun
    exact ⟨_, hrun', rfl, rfl, rfl, rfl, fun _ _ => ⟨rfl, rfl⟩⟩
  | some e =>
    have hs := step_upload_rejected hbs hv hins hsize
    have ht := step_upload_rejected hbt hv hint (hlen ▸ hsize)
    have hstart : Rejected (raise e (accept 0xF#4 { s with inputs := l }))
        (raise e (accept 0xF#4 { t with inputs := l })) :=
      ⟨rfl, rfl, by simp [htr], rfl, hrx.symm, rfl, hl⟩
    obtain ⟨t', hrun', h⟩ := run_simulates_after_step rejected_kept hs ht hstart hrun
    refine ⟨t', hrun', h.trace, h.phase'.trans h.phase.symm, h.err, h.rx, fun h1 h2 => ?_⟩
    rw [(sizeError_none_iff s.len).2 ⟨h1, h2⟩] at hsize
    cases hsize

end Sys2Proof.StateProofs

/-! PROOFS of the family 20_memory.md: the image memory and what reads it, the payload bytes of ROM.BUILD, the
transport's failures, the order of the events on the link. -/

namespace Sys2Proof.MemoryProofs

open Sys2Proof.Machine Sys2Proof.StateProofs

/-! ### The canonical form of the image memory -/

theorem img_hostWrite (r : HostReg) (v : Word) (s : State) : (hostWrite r v s).img = s.img := by
  unfold hostWrite
  split
  · split <;> rfl
  · cases r <;> rfl

theorem img_hostRead (r : HostReg) (s : State) : (hostRead r s).img = s.img := by
  rcases hostRead_cases r s with ⟨v, -, h⟩ | ⟨-, v, -, h⟩ <;> rw [h]

theorem img_turnWithoutWord {s t : State} (h : turnWithoutWord s = .next t) : t.img = s.img := by
  rcases turnWithoutWord_next h with ⟨-, rfl⟩ | ⟨-, -, rfl⟩ | ⟨-, -, rfl⟩ <;> rfl

/-- Reset leaves the memory of the reset state. -/
theorem img_resetInput (w : Bool) (s : State) : (resetInput w s).img = State.reset.img := by
  obtain ⟨d, tr, h, -⟩ := resetInput_eq w s
  rw [h]
  rfl

theorem wf_hostImage {s : State} (hs : Memory.wf s.img = true) (k : Nat) (b : Byte) :
    Memory.wf (hostImage k b s).img = true := by
  unfold hostImage
  split_ifs
  · exact hs
  · exact Memory.wf_write hs k b
  · exact hs

/-- No instruction changes the image (R54). -/
theorem img_exec {i : Instr} {s t : State} (h : exec i s = .next t) : t.img = s.img :=
  congrArg Prod.fst (frame_exec h).host

/-- Of the moves that run no instruction a host image write and the reset change the image; both leave it canonical. -/
theorem wf_otherMove {m : Input} {s t : State} (hs : Memory.wf s.img = true) (h : otherMove m s = .next t) :
    Memory.wf t.img = true := by
  cases m with
  | turn => rwa [img_turnWithoutWord h]
  | hostWrite r v => cases h; rwa [img_hostWrite]
  | hostRead r => cases h; rwa [img_hostRead]
  | hostImage k b => cases h; exact wf_hostImage hs k b
  | deliver x => cases h; exact hs
  | failNextWrite => cases h; exact hs
  | drainLink =>
    simp only [otherMove] at h
    split at h <;> cases h
    exact hs
  | reset w => cases h; rw [img_resetInput]; exact Memory.wf_reset

/-- Settles O58: an instruction keeps the image, a move without one keeps its form. -/
theorem stepKeepsMemoryCanonical : Obligations.StepKeepsMemoryCanonical := by
  intro s t hs h
  rcases step_next_cases h with ⟨i, -, hi⟩ | ⟨-, hm⟩
  · rw [img_exec hi]
    exact hs
  · exact wf_otherMove (s := s.pop) hs hm

/-! ### Moves on the link -/

theorem step_deliver {s : State} {x : RxItem} {l : List Input} (h : s.inputs = .deliver x :: l) :
    step s = .next { s with inputs := l, rx := s.rx ++ [x] } :=
  step_otherMove h rfl

/-- A run of deliveries puts its items behind what the receive stream holds, in order (R69). -/
theorem run_deliveries (xs : List RxItem) {s : State} {l : List Input} (h : s.inputs = xs.map .deliver ++ l) :
    Host.Core.run core xs.length s = .next { s with inputs := l, rx := s.rx ++ xs } := by
  induction xs generalizing s with
  | nil =>
    have hin : s.inputs = l := h
    simp [Host.Core.run, ← hin]
  | cons x xs ih =>
    rw [List.length_cons, run_succ_of_step (step_deliver h), ih rfl]
    simp

/-- Settles O60: the moves of the link run no instruction, whatever the block is doing. -/
theorem linkMovesActOnTheTransportOnly : Obligations.LinkMovesActOnTheTransportOnly := by
  refine fun s l => ⟨fun x h => step_deliver h, fun xs h => run_deliveries xs h, fun h => step_otherMove h rfl,
    fun hb h => ?_⟩
  rw [step_otherMove h rfl, otherMove]
  exact if_neg (Bool.eq_false_iff.1 hb)

end Sys2Proof.MemoryProofs

namespace Sys2Proof.MemoryProofs

open Sys2Proof.Machine Sys2Proof.StateProofs

/-! ### The payload bytes of ROM.BUILD -/

/-- A word put together of four bytes, as the bytes of R76: least significant first. -/
theorem bytes_of_append (b0 b1 b2 b3 : Byte) :
    let w : Word := b3 ++ b2 ++ b1 ++ b0
    [w.extractLsb' 0 8, w.extractLsb' 8 8, w.extractLsb' 16 8, w.extractLsb' 24 8] = [b0, b1, b2, b3] := by
  have shift {n start : Nat} (x : BitVec n) (b : Byte) (h : 8 ≤ start) :
      (x ++ b).extractLsb' start 8 = x.extractLsb' (start - 8) 8 := BitVec.extractLsb'_append_eq_of_le h
  have h0 : (b3 ++ b2 ++ b1 ++ b0).extractLsb' 0 8 = b0 := BitVec.extractLsb'_append_eq_right
  have h1 : (b3 ++ b2 ++ b1 ++ b0).extractLsb' 8 8 = b1 := by
    rw [shift _ _ (by decide)]
    exact BitVec.extractLsb'_append_eq_right
  have h2 : (b3 ++ b2 ++ b1 ++ b0).extractLsb' 16 8 = b2 := by
    rw [shift _ _ (by decide), shift _ _ (by decide)]
    exact BitVec.extractLsb'_append_eq_right
  have h3 : (b3 ++ b2 ++ b1 ++ b0).extractLsb' 24 8 = b3 := by
    rw [shift _ _ (by decide), shift _ _ (by decide)]
    exact BitVec.extractLsb'_append_eq_left
  simp only [List.cons.injEq, and_true]
  exact ⟨h0, h1, h2, h3⟩

/-- The byte view of the payload words is their bytes in the image (R76). -/
theorem payloadBytes_imagePayload (img : Memory) (len : Word) :
    payloadBytes (imagePayload img len) = (List.range (payloadCount len)).flatMap (payloadBytesAt img len) := by
  rw [payloadBytes, imagePayload, List.flatMap_map]
  exact congrArg (fun f => List.flatMap f _) (funext fun j => bytes_of_append _ _ _ _)

/-- Four entries at a time, an index range is covered in order. -/
theorem flatMap_range_four {α : Type} (f : Nat → α) (n : Nat) :
    (List.range n).flatMap (fun j => [f (4 * j), f (4 * j + 1), f (4 * j + 2), f (4 * j + 3)]) =
      (List.range (4 * n)).map f := by
  induction n with
  | zero => rfl
  | succ n ih =>
    rw [show 4 * (n + 1) = 4 * n + 1 + 1 + 1 + 1 by omega]
    simp [List.range_succ, ih]

/-- The payload words hold the bytes of the padded payload region, in ascending order (R76). -/
theorem payloadBytes_imagePayload_eq_map (img : Memory) (len : Word) :
    payloadBytes (imagePayload img len) =
      (List.range (4 * payloadCount len)).map fun k => paddedByte img len (Config.hdrBytes + k) := by
  rw [payloadBytes_imagePayload, ← flatMap_range_four]
  rfl

/-- The CRC of the image is that of the payload words' bytes (R76, R175). -/
theorem imageCrc_eq (img : Memory) (len : Word) :
    imageCrc img len = crcBytes Config.crcInit (payloadBytes (imagePayload img len)) := by
  rw [payloadBytes_imagePayload, imageCrc, crcBytes, List.foldl_flatMap]
  rfl

/-- An accepted size: the payload region fills the padded image behind the header (R174). -/
theorem payload_size {len : Word} (h : sizeError len = none) :
    448 ≤ paddedLength len ∧ paddedLength len ≤ 262144 ∧ 4 * payloadCount len = paddedLength len - 192 := by
  obtain ⟨hmin, hmax⟩ := (sizeError_none_iff len).1 h
  rw [payloadCount_eq, paddedLength_eq]
  omega

/-- A ROM.BUILD that ends in IDLE accepted the size and wrote the views of the image (R170, R176). -/
theorem romBuild_eq_loadImage {s t : State} (hb : s.busy = false) (h : exec .romBuild s = .next t)
    (ht : t.phase = .idle) : sizeError s.len = none ∧ t = loadImage (accept 0x6#4 s) := by
  rw [exec_command_idle rfl hb] at h
  cases h
  revert ht
  apply buildThen_spec (motive := fun t => t.phase = .idle → sizeError s.len = none ∧ t = loadImage (accept 0x6#4 s))
  case rejected => exact fun _ _ ht => by cases ht
  case built => exact fun hsize _ => ⟨hsize, rfl⟩

/-- A ROM.BUILD of an accepted size writes the views of the image. -/
theorem romBuild_of_sizeError_none {s : State} (hb : s.busy = false) (hsize : sizeError s.len = none) :
    exec .romBuild s = .next (loadImage (accept 0x6#4 s)) := by
  rw [exec_command_idle rfl hb]
  simp [accepted, buildThen, hsize]

/-- The padded length fits its register. -/
theorem plen_loadImage {s : State} (h : sizeError s.len = none) : (loadImage s).plen.toNat = paddedLength s.len := by
  obtain ⟨-, hmax, -⟩ := payload_size h
  exact Nat.mod_eq_of_lt (by omega)

/-- Settles O16: the words and the CRC are both read off the bytes of the padded payload region. -/
theorem builtCrcIsThatOfTheStoredWords : Obligations.BuiltCrcIsThatOfTheStoredWords := by
  intro s t hb h ht
  obtain ⟨hsize, rfl⟩ := romBuild_eq_loadImage hb h ht
  obtain ⟨-, -, hcount⟩ := payload_size hsize
  refine ⟨?_, imageCrc_eq s.img s.len⟩
  rw [plen_loadImage (s := accept 0x6#4 s) hsize, accept_len, ← hcount]
  exact payloadBytes_imagePayload_eq_map s.img s.len

/-! ### What ROM.BUILD reads -/

/-- Two images that are padded to the same bytes (R62). -/
structure SamePadded (img : Memory) (len : Word) (img' : Memory) (len' : Word) : Prop where
  length : paddedLength len' = paddedLength len
  byte : ∀ k, k < paddedLength len → paddedByte img' len' k = paddedByte img len k

section
variable {img img' : Memory} {len len' : Word}

theorem SamePadded.sizeError_eq (h : SamePadded img len img' len') : sizeError len' = sizeError len := by
  simp only [sizeError, h.length]

theorem SamePadded.payloadCount_eq (h : SamePadded img len img' len') : payloadCount len' = payloadCount len := by
  simp only [payloadCount, h.length]

/-- The header view reads below the padded length. -/
theorem SamePadded.imageHeader_eq (h : SamePadded img len img' len') (hmin : 192 ≤ paddedLength len) :
    imageHeader img' len' = imageHeader img len := by
  refine congrArg Vector.ofFn (funext fun i => ?_)
  have hi := i.isLt
  rw [paddedHalf, paddedHalf, h.byte _ (by omega), h.byte _ (by omega)]

/-- So does the payload view. -/
theorem SamePadded.imagePayload_eq (h : SamePadded img len img' len') (hsize : sizeError len = none) :
    imagePayload img' len' = imagePayload img len := by
  obtain ⟨-, -, hcount⟩ := payload_size hsize
  rw [imagePayload, imagePayload, h.payloadCount_eq]
  refine List.map_congr_left fun j hj => ?_
  have hlt := List.mem_range.1 hj
  simp only [paddedWord, Config.hdrBytes]
  rw [h.byte _ (by omega), h.byte _ (by omega), h.byte _ (by omega), h.byte _ (by omega)]

end

/-- Settles O17: ROM.BUILD reads the padded image below its padded length only, and the CRC is that of the words. -/
theorem onlyThePaddedImageMatters : Obligations.OnlyThePaddedImageMatters := by
  intro s s' t t' hb hb' hlen hbytes h h' ht
  obtain ⟨hsize, rfl⟩ := romBuild_eq_loadImage hb h ht
  have same : SamePadded s.img s.len s'.img s'.len := ⟨congrArg (· * 16) hlen.symm, fun k hk => (hbytes k hk).symm⟩
  rw [romBuild_of_sizeError_none hb' (same.sizeError_eq.trans hsize)] at h'
  cases h'
  obtain ⟨hmin, -, -⟩ := payload_size hsize
  have hp : imagePayload s'.img s'.len = imagePayload s.img s.len := same.imagePayload_eq hsize
  refine ⟨rfl, congrArg (BitVec.ofNat 19) same.length, congrArg (BitVec.ofNat 16) same.payloadCount_eq,
    same.imageHeader_eq (by omega), hp, ?_⟩
  show imageCrc s'.img s'.len = imageCrc s.img s.len
  rw [imageCrc_eq, imageCrc_eq, hp]

end Sys2Proof.MemoryProofs

namespace Sys2Proof.MemoryProofs

open Sys2Proof.Machine Sys2Proof.StateProofs

/-! ### Reads that do not complete and writes that fail -/

/-- What precedes a transfer changes the cipher at most. -/
theorem beforeTransfer_eq (i : Instr) (s : State) :
    ∃ x y : Word, beforeTransfer i s = { s with lcg := x, pos := y } := by
  rcases beforeTransfer_cases i s with ⟨h, -⟩ | ⟨h, -⟩ <;> rw [h]
  · exact ⟨s.lcg, s.pos, rfl⟩
  · exact ⟨lcgNext s.lcg, s.pos - Config.posStep, rfl⟩

theorem beforeTransfer_wData (d : Word) (s : State) :
    beforeTransfer (.wData d) s = if s.xhalf then s else cipherAdvance s := rfl

theorem beforeTransfer_of_xhalf {s : State} (i : Instr) (hx : s.xhalf = true) : beforeTransfer i s = s := by
  rcases beforeTransfer_cases i s with ⟨h, -⟩ | ⟨-, hx', -⟩
  · exact h
  · rw [hx] at hx'
    cases hx'

/-- An instruction in its place with a transfer in flight takes its read half. -/
theorem exec_readHalf {i : Instr} {s : State} (h : inPlace i s = true) (hw : s.wait = false) (hx : s.xhalf = true) :
    exec i s = .next (readHalf (onResponse i s) s) := by
  rw [exec_inPlace_transfer h (.inr hw), beforeTransfer_of_xhalf i hx, transfer, if_pos hx]

/-- With none in flight its write half. -/
theorem exec_writeHalf {i : Instr} {s : State} (h : inPlace i s = true) (hw : s.wait = false) (hx : s.xhalf = false) :
    ∃ x y : Word, exec i s = .next (writeHalf (sentWord i s) { s with lcg := x, pos := y }) := by
  obtain ⟨x, y, hb⟩ := beforeTransfer_eq i s
  refine ⟨x, y, ?_⟩
  rw [exec_inPlace_transfer h (.inr hw), hb, transfer, if_neg (by simp [hx])]

/-- Settles O39: the read meets neither four bytes nor an end of the stream. -/
theorem incompleteReadWaits : Obligations.IncompleteReadWaits := by
  intro i s got hp hw hx hlen hrx
  rw [exec_readHalf hp hw hx, readHalf, hrx, linkRead_open hlen]

/-- The frame of an instruction in its place is that of the word it sends. -/
theorem frameSent_eq {i : Instr} {s : State} (h : inPlace i s = true) : frameSent i s = frameBytes (sentWord i s) := by
  have half : frameBytes (zext16 s.opaHalf) = [0x00#8, 0x00#8, s.opa.extractLsb' 8 8, s.opa.extractLsb' 0 8] := by
    rw [frameBytes_zext16]
    simp [State.opaHalf, BitVec.extractLsb'_setWidth_of_le]
  cases i <;> simp [inPlace] at h
  case xfer16 | sendd | sendu => exact half.symm
  all_goals rfl

/-- What an aborted read of `got` leaves (R71, R280): at most three bytes are gone, `rest` stands behind the others. -/
theorem readAborted_spec (k : ErrKind) (got : List Byte) (rest : List RxItem) (s : State) :
    ∃ n : Nat, n ≤ 3 ∧ (readAborted k got rest s).phase = .error ∧
      (readAborted k got rest s).err = k.record s.phase ∧ (readAborted k got rest s).xhalf = false ∧
      (readAborted k got rest s).wait = false ∧
      (readAborted k got rest s).rx = (got.drop n).map .byte ++ rest ∧
      (readAborted k got rest s).trace = s.trace ++ [.took (got.take n), .error (readAborted k got rest s).err] :=
  ⟨Config.freeCount s.draws % 4, by omega, rfl, rfl, rfl, rfl, rfl, List.append_assoc _ _ _⟩

/-- Settles O38: the write half that fails, and the two ends of the stream that the read half can meet. -/
theorem transportFailuresAbort : Obligations.TransportFailuresAbort := by
  intro i s hp hw record
  refine ⟨fun hx hf => ?_, fun got rest hx hlen hrx => ?_, fun got rest hx hlen hrx => ?_⟩
  · obtain ⟨x, y, h⟩ := exec_writeHalf hp hw hx
    rw [writeHalf, if_pos hf] at h
    refine ⟨_, Config.freeCount s.draws % 5, h, by omega, rfl, rfl, rfl, rfl, rfl, ?_⟩
    rw [frameSent_eq hp]
    exact List.append_assoc _ _ _
  · obtain ⟨n, hn⟩ := readAborted_spec .readFailed got rest s
    refine ⟨_, n, ?_, hn⟩
    rw [exec_readHalf hp hw hx, readHalf, hrx, linkRead_failure hlen]
  · obtain ⟨n, hn⟩ := readAborted_spec .endOfStream got (.closed :: rest) s
    refine ⟨_, n, ?_, hn⟩
    rw [exec_readHalf hp hw hx, readHalf, hrx, linkRead_closed hlen]

/-! ### Wire words and the image -/

/-- The state with another image of another length. -/
def withImage (m : Memory) (n : Word) (s : State) : State :=
  { s with img := m, len := n }

section
variable (m : Memory) (n : Word)

@[simp] theorem withImage_phase (s : State) : (withImage m n s).phase = s.phase := rfl
@[simp] theorem withImage_xhalf (s : State) : (withImage m n s).xhalf = s.xhalf := rfl
@[simp] theorem withImage_rx (s : State) : (withImage m n s).rx = s.rx := rfl
@[simp] theorem withImage_txFail (s : State) : (withImage m n s).txFail = s.txFail := rfl
@[simp] theorem withImage_rms (s : State) : (withImage m n s).rms = s.rms := rfl
@[simp] theorem withImage_stab (s : State) : (withImage m n s).stab = s.stab := rfl
@[simp] theorem withImage_pidx (s : State) : (withImage m n s).pidx = s.pidx := rfl
@[simp] theorem withImage_nwords (s : State) : (withImage m n s).nwords = s.nwords := rfl

/-- The operation does the same whatever the image and its length. -/
def IgnoresImage (f : State → State) : Prop :=
  ∀ s : State, f (withImage m n s) = withImage m n (f s)

theorem writeHalf_withImage (w : Word) : IgnoresImage m n (writeHalf w) := by
  intro s
  unfold writeHalf
  rw [withImage_txFail]
  split <;> rfl

variable {m n}

theorem readHalf_withImage {k : Half → State → State} (hk : ∀ r, IgnoresImage m n (k r)) :
    IgnoresImage m n (readHalf k) := by
  intro s
  unfold readHalf
  rw [withImage_rx]
  cases linkRead s.rx with
  | frame c0 c1 c2 c3 rest =>
    exact hk (c0 ++ c1) { s with rx := rest, xhalf := false, trace := s.trace ++ [.took [c0, c1, c2, c3]] }
  | failed got rest => rfl
  | ended got rest => rfl
  | waiting => rfl

theorem transfer_withImage (w : Word) {k : Half → State → State} (hk : ∀ r, IgnoresImage m n (k r)) :
    IgnoresImage m n (transfer w k) := by
  intro s
  unfold transfer
  rw [withImage_xhalf]
  split
  · exact readHalf_withImage hk s
  · exact writeHalf_withImage m n w s

theorem demand_withImage {w e q r : Half} {k : Half → State → State} (hk : IgnoresImage m n (k r)) :
    IgnoresImage m n (demand w e q k r) := by
  intro s
  unfold demand
  split
  · exact hk s
  · rfl

theorem poll_withImage {e q r : Half} {d : Word} {k : Half → State → State} (hk : IgnoresImage m n (k r)) :
    IgnoresImage m n (poll e q d k r) := by
  intro s
  unfold poll
  split_ifs
  · exact hk s
  · rfl
  · rfl

variable (m n)

theorem discoverResponse_withImage (r : Half) : IgnoresImage m n (discoverResponse r) := by
  intro s
  unfold discoverResponse
  rw [withImage_rms]
  split_ifs <;> rfl

theorem stabilizeResponse_withImage (r : Half) : IgnoresImage m n (stabilizeResponse r) := by
  intro s
  unfold stabilizeResponse
  rw [withImage_stab]
  split_ifs <;> rfl

theorem dataSent_withImage : IgnoresImage m n dataSent := by
  intro s
  unfold dataSent
  rw [withImage_pidx, withImage_nwords]
  split <;> rfl

/-- What the response of an instruction does has no use for the image: the phases read H and P (R84). -/
theorem onResponse_withImage (i : Instr) (s : State) (r : Half) : IgnoresImage m n (onResponse i s r) := by
  cases i <;> simp only [onResponse]
  case sendd | wPr1 | wHdr | wHdrend | wPr2 | wHs | wLen | wCrcgo | wCrc => exact demand_withImage fun _ => rfl
  case sendu | wPal | wCrcreq => exact poll_withImage fun _ => rfl
  case wPoll =>
    intro t
    beta_reduce
    rw [withImage_phase]
    split
    · exact discoverResponse_withImage m n r t
    · exact stabilizeResponse_withImage m n r t
  case wData => exact dataSent_withImage m n
  all_goals exact fun _ => rfl

theorem beforeTransfer_withImage (i : Instr) : IgnoresImage m n (beforeTransfer i) := by
  intro s
  cases i
  case wData d =>
    rw [beforeTransfer_wData, beforeTransfer_wData, withImage_xhalf]
    split <;> rfl
  all_goals rfl

theorem inPlace_withImage (i : Instr) (s : State) : inPlace i (withImage m n s) = inPlace i s := by
  cases i <;> rfl

theorem onResponse_state_withImage (i : Instr) (s : State) : onResponse i (withImage m n s) = onResponse i s := by
  cases i <;> rfl

/-- A wire word does the same whatever the image and its length: neither its word nor its response reads them. -/
theorem exec_wire_withImage {i : Instr} {s t : State} (hi : i.opcode? = none) (h : exec i s = .next t) :
    exec i (withImage m n s) = .next (withImage m n t) := by
  have hplace : inPlace i (withImage m n s) = inPlace i s := inPlace_withImage m n i s
  have hpoll : pollDelay i (withImage m n s) = pollDelay i s := by cases i <;> rfl
  have hsent : sentWord i (withImage m n s) = sentWord i s := by cases i <;> rfl
  rcases exec_next_cases h with ⟨ho, -⟩ | ⟨ho, -⟩ | ⟨rfl, -⟩ | ⟨d, hp, hd, hw, rfl⟩ | ⟨hp, hw, rfl⟩
  · rw [hi] at ho; cases ho
  · rw [hi] at ho; cases ho
  · cases hi
  · exact exec_inPlace_delay (hplace.trans hp) (hpoll.trans hd) hw
  · rw [exec_inPlace_transfer (hplace.trans hp) (by rwa [hpoll]), hsent, onResponse_state_withImage,
      beforeTransfer_withImage]
    exact congrArg _ (transfer_withImage _ (onResponse_withImage m n i s) _)

end

/-- Settles O47: a wire word has no use for the image. -/
theorem wireWordsNeverReadTheImage : Obligations.WireWordsNeverReadTheImage :=
  fun _ _ _ m n hi h => exec_wire_withImage m n hi h

end Sys2Proof.MemoryProofs

namespace Sys2Proof.MemoryProofs

open Sys2Proof.Machine Sys2Proof.StateProofs

/-! ### The order of the events on the link -/

/-- The events that are no write, read or delay. -/
def offLink : Obs → Bool
  | .done | .error _ => true
  | .wrote _ | .took _ | .delay _ => false

/-- An operation off the link: it records no event of the link and starts no transfer. -/
structure OffLink (s t : State) : Prop where
  trace : ∃ l : List Obs, t.trace = s.trace ++ l ∧ ∀ o ∈ l, offLink o = true
  xhalf : s.xhalf = false → t.xhalf = false

/-- An operation that keeps the trace and the transfer. -/
theorem offLink_of_kept {s t : State} (htr : t.trace = s.trace) (hx : t.xhalf = s.xhalf) : OffLink s t :=
  ⟨⟨[], by rw [htr, List.append_nil], by simp⟩, fun h => hx.trans h⟩

theorem offLink_raise (k : ErrKind) {s u : State} (h : u.trace = s.trace) : OffLink s (raise k u) :=
  ⟨⟨[.error (k.record u.phase)], congrArg (· ++ _) h, by simp [offLink]⟩, fun _ => rfl⟩

theorem offLink_demand {w e m r : Half} {k : Half → State → State} {t : State} (hk : OffLink t (k r t)) :
    OffLink t (demand w e m k r t) := by
  unfold demand
  split
  · exact hk
  · exact offLink_raise _ rfl

theorem offLink_poll {e m r : Half} {d : Word} {k : Half → State → State} {t : State} (hk : OffLink t (k r t)) :
    OffLink t (poll e m d k r t) := by
  unfold poll
  split_ifs
  · exact hk
  · exact offLink_of_kept rfl rfl
  · exact offLink_of_kept rfl rfl

/-- What a response does is off the link: of the events it can record the end of the upload and an error. -/
theorem offLink_onResponse (i : Instr) (s : State) (r : Half) (t : State) : OffLink t (onResponse i s r t) := by
  cases i <;> simp only [onResponse]
  case sendd | wPr1 | wHdr | wHdrend | wPr2 | wHs | wLen | wCrcgo => exact offLink_demand (offLink_of_kept rfl rfl)
  case wCrc => exact offLink_demand ⟨⟨[.done], rfl, by simp [offLink]⟩, id⟩
  case sendu | wPal | wCrcreq => exact offLink_poll (offLink_of_kept rfl rfl)
  case wPoll =>
    unfold discoverResponse stabilizeResponse
    split_ifs <;> exact offLink_of_kept rfl rfl
  case wData =>
    unfold dataSent
    split <;> exact offLink_of_kept rfl rfl
  all_goals exact offLink_of_kept rfl rfl

/-- An accepted command is off the link. -/
theorem offLink_accepted (i : Instr) (s : State) : OffLink s (accepted i s) := by
  cases i
  case romBuild =>
    apply buildThen_spec (motive := OffLink s)
    case rejected => exact fun e _ => offLink_raise e rfl
    case built => exact fun _ => offLink_of_kept rfl rfl
  case upload =>
    apply buildThen_spec (motive := OffLink s)
    case rejected => exact fun e _ => offLink_raise e rfl
    case built => exact fun _ => ⟨⟨[], by simp [startPhases, loadImage], by simp⟩, fun _ => rfl⟩
  all_goals exact offLink_of_kept rfl rfl

/-- The order of R81 from `s` to `t`, with `l` the events between them. -/
structure InOrder (s t : State) (l : List Obs) : Prop where
  trace : t.trace = s.trace ++ l
  wrote : ∀ bs : List Byte, .wrote bs ∈ l →
    s.xhalf = false ∧ ((t.xhalf = true ∧ bs.length = 4 ∧ l = [.wrote bs]) ∨ (t.phase = .error ∧ bs.length ≤ 4))
  took : ∀ bs : List Byte, .took bs ∈ l →
    s.xhalf = true ∧ t.xhalf = false ∧ s.rx.take bs.length = bs.map .byte ∧ (bs.length = 4 ∨ t.phase = .error)
  delay : ∀ us : Word, .delay us ∈ l → s.xhalf = false ∧ t.xhalf = false ∧ l = [.delay us]

/-- What is off the link is in order. -/
theorem inOrder_of_offLink {s t : State} (h : OffLink s t) : ∃ l, InOrder s t l := by
  obtain ⟨l, htr, hl⟩ := h.trace
  exact ⟨l, {
    trace := htr
    wrote := fun bs hm => by cases hl _ hm
    took := fun bs hm => by cases hl _ hm
    delay := fun us hm => by cases hl _ hm }⟩

/-- A delay with no transfer in flight is in order. -/
theorem inOrder_delay {s t : State} {us : Word} (hx : s.xhalf = false) (ht : t.xhalf = false)
    (htr : t.trace = s.trace ++ [.delay us]) : InOrder s t [.delay us] where
  trace := htr
  wrote bs hm := by simp at hm
  took bs hm := by simp at hm
  delay us' hm := by
    obtain rfl : us' = us := by simpa using hm
    exact ⟨hx, ht, rfl⟩

/-- A write that goes out leaves a transfer in flight. -/
theorem inOrder_write {s t : State} {bs : List Byte} (hx : s.xhalf = false) (ht : t.xhalf = true) (hbs : bs.length = 4)
    (htr : t.trace = s.trace ++ [.wrote bs]) : InOrder s t [.wrote bs] where
  trace := htr
  wrote bs' hm := by
    obtain rfl : bs' = bs := by simpa using hm
    exact ⟨hx, .inl ⟨ht, hbs, rfl⟩⟩
  took bs' hm := by simp at hm
  delay us hm := by simp at hm

/-- A write that fails ends in ERROR. -/
theorem inOrder_writeFailed {s t : State} {bs : List Byte} {e : ErrRecord} (hx : s.xhalf = false)
    (ht : t.phase = .error) (hbs : bs.length ≤ 4) (htr : t.trace = s.trace ++ [.wrote bs, .error e]) :
    InOrder s t [.wrote bs, .error e] where
  trace := htr
  wrote bs' hm := by
    obtain rfl : bs' = bs := by simpa using hm
    exact ⟨hx, .inr ⟨ht, hbs⟩⟩
  took bs' hm := by simp at hm
  delay us hm := by simp at hm

/-- A read ends its transfer; what follows it in the same step is off the link. -/
theorem inOrder_read {s t : State} {bs : List Byte} {l : List Obs} (hx : s.xhalf = true) (ht : t.xhalf = false)
    (hrx : s.rx.take bs.length = bs.map .byte) (hbs : bs.length = 4 ∨ t.phase = .error)
    (hl : ∀ o ∈ l, offLink o = true) (htr : t.trace = s.trace ++ .took bs :: l) : InOrder s t (.took bs :: l) where
  trace := htr
  wrote bs' hm := by
    rcases List.mem_cons.1 hm with h | h
    · cases h
    · cases hl _ h
  took bs' hm := by
    rcases List.mem_cons.1 hm with h | h
    · cases h
      exact ⟨hx, ht, hrx, hbs⟩
    · cases hl _ h
  delay us hm := by
    rcases List.mem_cons.1 hm with h | h
    · cases h
    · cases hl _ h

/-- The bytes an aborted read took stood at the front of the receive stream. -/
theorem take_front (got : List Byte) (rest : List RxItem) (n : Nat) :
    (got.map RxItem.byte ++ rest).take (got.take n).length = (got.take n).map .byte := by
  rw [List.take_append_of_le_length (by simp), ← List.map_take, List.length_take, ← List.take_eq_take_min]

/-- A read that does not complete takes bytes from the front and ends in ERROR. -/
theorem inOrder_readAborted {s : State} {got : List Byte} {rest : List RxItem} (k : ErrKind) (rest' : List RxItem)
    (hx : s.xhalf = true) (hrx : s.rx = got.map .byte ++ rest) : ∃ l, InOrder s (readAborted k got rest' s) l := by
  obtain ⟨n, -, hp, -, hxhalf, -, -, htr⟩ := readAborted_spec k got rest' s
  refine ⟨_, inOrder_read hx hxhalf ?_ (.inr hp) (by simp [offLink]) htr⟩
  rw [hrx]
  exact take_front got rest n

/-- Each half of a transfer is in order if what its response does is off the link. -/
theorem inOrder_transfer {w : Word} {k : Half → State → State} {s : State} (hk : ∀ r t, OffLink t (k r t)) :
    ∃ l, InOrder s (transfer w k s) l := by
  apply transfer_spec (motive := fun t => ∃ l, InOrder s t l)
  case wrote => exact fun hx _ => ⟨_, inOrder_write hx rfl rfl rfl⟩
  case writeFailed =>
    intro hx _
    have hlen : ((frameBytes w).take (Config.freeCount s.draws % 5)).length ≤ 4 := List.length_take_le' _ _
    exact ⟨_, inOrder_writeFailed hx rfl hlen (List.append_assoc _ _ _)⟩
  case frame =>
    intro c0 c1 c2 c3 rest hx hrx
    obtain ⟨⟨l, htr, hl⟩, hxhalf⟩ := hk (c0 ++ c1)
      { s with rx := rest, xhalf := false, trace := s.trace ++ [.took [c0, c1, c2, c3]] }
    refine ⟨_, inOrder_read hx (hxhalf rfl) ?_ (.inl rfl) hl (htr.trans (List.append_assoc _ _ _))⟩
    rw [hrx]
    rfl
  case failed => exact fun got rest hx h => inOrder_readAborted _ _ hx (linkRead_eq_failed h)
  case ended => exact fun got rest hx h => inOrder_readAborted _ _ hx (linkRead_eq_ended h)
  case waiting => exact fun _ _ => inOrder_of_offLink (offLink_of_kept rfl rfl)

/-- In a sound state every instruction keeps the order. -/
theorem inOrder_exec {i : Instr} {s t : State} (hs : ControlSound s) (h : exec i s = .next t) :
    ∃ l, InOrder s t l := by
  rcases exec_next_cases h with ⟨-, -, rfl⟩ | ⟨-, -, rfl⟩ | ⟨-, hp, hc, rfl⟩ | ⟨d, -, -, hw, rfl⟩ | ⟨-, -, rfl⟩
  case inl => exact inOrder_of_offLink (offLink_accepted i s)
  case inr.inl => exact inOrder_of_offLink (offLink_of_kept rfl rfl)
  case inr.inr.inl =>
    have hx : s.xhalf = false := Bool.eq_false_iff.2 fun hx => (hs.inFlight hx).2 hp hc
    exact ⟨_, inOrder_delay hx hx rfl⟩
  case inr.inr.inr.inl =>
    obtain ⟨hx, -⟩ := hs.waiting hw
    exact ⟨_, inOrder_delay hx hx rfl⟩
  case inr.inr.inr.inr =>
    obtain ⟨x, y, hb⟩ := beforeTransfer_eq i s
    rw [hb]
    obtain ⟨l, hl⟩ := inOrder_transfer (w := sentWord i s) (s := { s with lcg := x, pos := y }) (offLink_onResponse i s)
    exact ⟨l, hl.trace, hl.wrote, hl.took, hl.delay⟩

/-- In a sound state the block's turn without a word keeps the order: phase 8 has no transfer. -/
theorem inOrder_turnWithoutWord {s t : State} (hs : ControlSound s) (h : turnWithoutWord s = .next t) :
    ∃ l, InOrder s t l := by
  rcases turnWithoutWord_next h with ⟨hp, rfl⟩ | ⟨-, -, rfl⟩ | ⟨-, -, rfl⟩
  · have hx : s.xhalf = false := Bool.eq_false_iff.2 fun hx => (hs.inFlight hx).1 hp
    exact ⟨_, inOrder_delay hx hx rfl⟩
  · exact inOrder_of_offLink (offLink_of_kept rfl rfl)
  · exact inOrder_of_offLink (offLink_of_kept rfl rfl)

theorem offLink_hostWrite (r : HostReg) (v : Word) (s : State) : OffLink s (hostWrite r v s) := by
  unfold hostWrite
  split
  · split <;> exact offLink_of_kept rfl rfl
  · cases r <;> exact offLink_of_kept rfl rfl

theorem offLink_hostRead (r : HostReg) (s : State) : OffLink s (hostRead r s) := by
  rcases hostRead_cases r s with ⟨v, -, h⟩ | ⟨-, v, -, h⟩ <;> rw [h] <;> exact offLink_of_kept rfl rfl

theorem offLink_hostImage (k : Nat) (b : Byte) (s : State) : OffLink s (hostImage k b s) := by
  unfold hostImage
  split_ifs <;> exact offLink_of_kept rfl rfl

/-- The other agents' moves but for reset are off the link; the peer's deliveries are no events of the block. -/
theorem inOrder_otherMove {m : Input} {s t : State} (hs : ControlSound s) (h : otherMove m s = .next t)
    (hr : ∀ w, m ≠ .reset w) : ∃ l, InOrder s t l := by
  cases m with
  | turn => exact inOrder_turnWithoutWord hs h
  | hostWrite r v => cases h; exact inOrder_of_offLink (offLink_hostWrite r v s)
  | hostRead r => cases h; exact inOrder_of_offLink (offLink_hostRead r s)
  | hostImage k b => cases h; exact inOrder_of_offLink (offLink_hostImage k b s)
  | deliver x => cases h; exact inOrder_of_offLink (offLink_of_kept rfl rfl)
  | failNextWrite => cases h; exact inOrder_of_offLink (offLink_of_kept rfl rfl)
  | drainLink =>
    simp only [otherMove] at h
    split at h <;> cases h
    exact inOrder_of_offLink (offLink_of_kept rfl rfl)
  | reset w => exact absurd rfl (hr w)

/-- Settles O44: the instruction or the move keeps the order, from the state with its move taken off. -/
theorem linkEventsAreInOrder : Obligations.LinkEventsAreInOrder := by
  intro s t hs h hr
  have hpop : ControlSound s.pop := controlSound_of_controlFields hs rfl
  obtain ⟨l, hl⟩ : ∃ l, InOrder s.pop t l := by
    rcases step_next_cases h with ⟨i, -, hi⟩ | ⟨-, hm⟩
    · exact inOrder_exec hpop hi
    · exact inOrder_otherMove hpop hm hr
  exact ⟨l, hl.trace, hl.wrote, hl.took, hl.delay⟩

end Sys2Proof.MemoryProofs

/-! PROOFS of the family 30_encoding.md: what a running upload holds, decoding and encoding, what each phase fetches
and sends, and what the responses do. -/

namespace Sys2Proof.EncodingProofs

open Sys2Proof.Machine Sys2Proof.StateProofs Sys2Proof.MemoryProofs

/-! ### The data part of a sound state, phase by phase -/

/-- The image was accepted and split (R42, R43, R47, R67, R174). -/
def Split (s : State) : Prop :=
  448 ≤ s.plen.toNat ∧ s.plen.toNat ≤ 262144 ∧ s.plen.toNat % 16 = 0 ∧
    4 * s.nwords.toNat + 192 = s.plen.toNat ∧ s.p.length = s.nwords.toNat

/-- The CRC is that of the payload bytes (R136, R243). -/
def PayloadCrc (s : State) : Prop :=
  s.crc = crcBytes 0xC387#16 (payloadBytes s.p)

/-- The CRC is that of the payload bytes and the seal (R137). -/
def SealedCrc (s : State) : Prop :=
  s.crc = crcBytes 0xC387#16 (payloadBytes s.p ++ [s.hsb, s.fcb, 0xFF#8, 0xFF#8])

/-- The handshake byte is made from the seed (R98). -/
def HandshakeMade (s : State) : Prop :=
  s.hsb = s.seed + 0x0F#8

/-- The cipher was started from the seed and has made `n` words (R154, R155). -/
def CipherAt (n : Nat) (s : State) : Prop :=
  s.lcg = lcgAfter n (0xFFFF#16 ++ s.seed ++ 0xD1#8) ∧ s.pos = posAfter n

/-- What `UploadSound` asks in a phase. -/
def Asked (p : Phase) (s : State) : Prop :=
  match p with
  | .idle | .error | .unit => True
  | .discover | .stabilize | .pr1 | .headers | .pr2 | .palette => Split s ∧ PayloadCrc s
  | .handshake | .fixedDelay | .length => Split s ∧ PayloadCrc s ∧ HandshakeMade s
  | .main =>
    Split s ∧ PayloadCrc s ∧ HandshakeMade s ∧ s.pidx.toNat < s.nwords.toNat ∧
      CipherAt (s.pidx.toNat + s.xhalf.toNat) s
  | .prepCrc => Split s ∧ PayloadCrc s ∧ HandshakeMade s ∧ s.pidx = s.nwords ∧ CipherAt s.pidx.toNat s
  | .sendCrc | .done => Split s ∧ SealedCrc s ∧ HandshakeMade s ∧ s.pidx = s.nwords ∧ CipherAt s.pidx.toNat s

theorem cipherWords_main {s : State} (hp : s.phase = .main) : cipherWords s = s.pidx.toNat + s.xhalf.toNat := by
  cases hx : s.xhalf <;> simp [cipherWords, hp, hx]

theorem cipherWords_of_ne_main {s : State} (hp : s.phase ≠ .main) : cipherWords s = s.pidx.toNat := by
  simp [cipherWords, hp]

/-- What a sound state holds in its phase. -/
theorem asked_of_uploadSound {s : State} (hs : UploadSound s) : Asked s.phase s := by
  obtain ⟨geometry, sending, sent, payloadCrc, sealedCrc, handshake, cipher⟩ := hs
  cases hp : s.phase <;> simp only [hp] at geometry sending sent payloadCrc sealedCrc handshake cipher
  case idle | error | unit => trivial
  case discover | stabilize | pr1 | headers | pr2 | palette =>
    exact ⟨geometry (by decide), payloadCrc (by decide) (by decide)⟩
  case handshake | fixedDelay | length =>
    exact ⟨geometry (by decide), payloadCrc (by decide) (by decide), handshake (by decide) (by decide)⟩
  case main =>
    rw [cipherWords_main hp] at cipher
    exact ⟨geometry (by decide), payloadCrc (by decide) (by decide), handshake (by decide) (by decide),
      sending (by decide), cipher (by decide)⟩
  case prepCrc =>
    rw [cipherWords_of_ne_main (by simp [hp])] at cipher
    exact ⟨geometry (by decide), payloadCrc (by decide) (by decide), handshake (by decide) (by decide),
      sent (by decide), cipher (by decide)⟩
  case sendCrc | done =>
    rw [cipherWords_of_ne_main (by simp [hp])] at cipher
    exact ⟨geometry (by decide), sealedCrc (by decide), handshake (by decide) (by decide), sent (by decide),
      cipher (by decide)⟩

/-- A state is sound that holds what its phase asks. -/
theorem uploadSound_of_asked {s : State} (p : Phase) (hp : s.phase = p) (h : Asked p s) : UploadSound s := by
  cases p
  case idle | error | unit => constructor <;> rw [hp] <;> simp [Phase.inUpload, Phase.code]
  case discover | stabilize | pr1 | headers | pr2 | palette =>
    obtain ⟨hsplit, hcrc⟩ := h
    constructor <;> rw [hp]
    case geometry => exact fun _ => hsplit
    case payloadCrc => exact fun _ _ => hcrc
    all_goals simp [Phase.code]
  case handshake | fixedDelay | length =>
    obtain ⟨hsplit, hcrc, hhsb⟩ := h
    constructor <;> rw [hp]
    case geometry => exact fun _ => hsplit
    case payloadCrc => exact fun _ _ => hcrc
    case handshake => exact fun _ _ => hhsb
    all_goals simp
  case main =>
    obtain ⟨hsplit, hcrc, hhsb, hlt, hcipher⟩ := h
    rw [← cipherWords_main hp] at hcipher
    constructor <;> rw [hp]
    case geometry => exact fun _ => hsplit
    case payloadCrc => exact fun _ _ => hcrc
    case handshake => exact fun _ _ => hhsb
    case sending => exact fun _ => hlt
    case cipher => exact fun _ => hcipher
    all_goals simp
  case prepCrc =>
    obtain ⟨hsplit, hcrc, hhsb, hsent, hcipher⟩ := h
    rw [← cipherWords_of_ne_main (by simp [hp])] at hcipher
    constructor <;> rw [hp]
    case geometry => exact fun _ => hsplit
    case payloadCrc => exact fun _ _ => hcrc
    case handshake => exact fun _ _ => hhsb
    case sent => exact fun _ => hsent
    case cipher => exact fun _ => hcipher
    all_goals simp
  case sendCrc | done =>
    obtain ⟨hsplit, hcrc, hhsb, hsent, hcipher⟩ := h
    rw [← cipherWords_of_ne_main (by simp [hp])] at hcipher
    constructor <;> rw [hp]
    case geometry => exact fun _ => hsplit
    case sealedCrc => exact fun _ => hcrc
    case handshake => exact fun _ _ => hhsb
    case sent => exact fun _ => hsent
    case cipher => exact fun _ => hcipher
    all_goals simp [Phase.inUpload, Phase.code]

/-- The fields `UploadSound` speaks of, but for PHASE and XHALF. -/
def dataFields (s : State) : BitVec 19 × Half × List Word × Half × Half × Byte × Byte × Byte × Word × Word :=
  (s.plen, s.nwords, s.p, s.pidx, s.crc, s.hsb, s.fcb, s.seed, s.lcg, s.pos)

/-- What is asked in a phase depends on the data, and in phase 10 on XHALF. -/
theorem asked_of_dataFields {p : Phase} {s t : State} (h : dataFields t = dataFields s)
    (hx : t.xhalf = s.xhalf ∨ p ≠ .main) (hs : Asked p s) : Asked p t := by
  simp only [dataFields, Prod.mk.injEq] at h
  obtain ⟨hplen, hnwords, hp, hpidx, hcrc, hhsb, hfcb, hseed, hlcg, hpos⟩ := h
  cases p <;>
    simp only [Asked, Split, PayloadCrc, SealedCrc, HandshakeMade, CipherAt, hplen, hnwords, hp, hpidx, hcrc, hhsb,
      hfcb, hseed, hlcg, hpos] at hs ⊢
  case main => rwa [hx.resolve_right (absurd rfl)]
  all_goals exact hs

/-- A move from a phase to one that asks for no more. -/
theorem uploadSound_movedTo (p q : Phase) {s t : State} (hs : UploadSound s) (hp : s.phase = p) (hq : t.phase = q)
    (hpq : ∀ s : State, Asked p s → Asked q s) (hx : t.xhalf = s.xhalf ∨ q ≠ .main)
    (h : dataFields t = dataFields s) : UploadSound t :=
  uploadSound_of_asked q hq (asked_of_dataFields h hx (hpq s (hp ▸ asked_of_uploadSound hs)))

/-- A change of other fields. -/
theorem uploadSound_of_kept {s t : State} (hs : UploadSound s) (hp : t.phase = s.phase)
    (hx : t.xhalf = s.xhalf ∨ s.phase ≠ .main) (h : dataFields t = dataFields s) : UploadSound t :=
  uploadSound_movedTo s.phase s.phase hs rfl hp (fun _ h => h) hx h

/-- An error ends the upload, whose data then mean nothing. -/
theorem uploadSound_raise (k : ErrKind) (s : State) : UploadSound (raise k s) :=
  uploadSound_of_asked .error rfl trivial

/-! ### Responses -/

/-- A transfer outside phase 10 keeps the data part if what its response does keeps it. -/
theorem uploadSound_transfer {w : Word} {k : Half → State → State} {s : State} (hs : UploadSound s)
    (hm : s.phase ≠ .main) (hk : ∀ r rx tr, UploadSound (k r { s with rx := rx, xhalf := false, trace := tr })) :
    UploadSound (transfer w k s) := by
  apply transfer_spec (motive := UploadSound)
  case wrote => exact fun _ _ => uploadSound_of_kept hs rfl (.inr hm) rfl
  case frame => exact fun _ _ _ _ _ _ _ => hk _ _ _
  case waiting => exact fun _ _ => hs
  case writeFailed => exact fun _ _ => uploadSound_raise _ _
  case failed => exact fun _ _ _ _ => uploadSound_raise _ _
  case ended => exact fun _ _ _ _ => uploadSound_raise _ _

theorem uploadSound_demand {w e m r : Half} {k : Half → State → State} {t : State} (hk : UploadSound (k r t)) :
    UploadSound (demand w e m k r t) := by
  unfold demand
  split
  · exact hk
  · exact uploadSound_raise _ t

theorem uploadSound_poll {e m r : Half} {d : Word} {k : Half → State → State} {t : State} (ht : UploadSound t)
    (hk : UploadSound (k r t)) : UploadSound (poll e m d k r t) := by
  unfold poll
  split_ifs
  · exact hk
  · exact ht
  · exact uploadSound_of_kept ht rfl (.inl rfl) rfl

theorem uploadSound_discoverResponse (r : Half) {t : State} (ht : UploadSound t) (hp : t.phase = .discover) :
    UploadSound (discoverResponse r t) := by
  have next : UploadSound { t with stab := 0#4, phase := .stabilize } :=
    uploadSound_movedTo .discover .stabilize ht hp rfl (fun _ h => h) (.inl rfl) rfl
  have again (rms : Bool) : UploadSound { t with rms := rms, wait := true } :=
    uploadSound_of_kept ht rfl (.inl rfl) rfl
  unfold discoverResponse
  split_ifs
  · exact next
  · exact next
  · exact again true
  · exact again true
  · exact again t.rms

theorem uploadSound_stabilizeResponse (r : Half) {t : State} (ht : UploadSound t) (hp : t.phase = .stabilize) :
    UploadSound (stabilizeResponse r t) := by
  unfold stabilizeResponse
  split_ifs
  · exact uploadSound_movedTo .stabilize .pr1 ht hp rfl (fun _ h => h) (.inl rfl) rfl
  · exact uploadSound_of_kept ht rfl (.inl rfl) rfl
  · exact uploadSound_of_kept ht rfl (.inl rfl) rfl

/-- The two forms of the handshake byte (R98, R230). -/
theorem handshakeByte_eq (seed : Byte) : handshakeByte seed = seed + 0x0F#8 := by
  simp only [handshakeByte, BitVec.add_assoc]
  rfl

/-- The end of phase 6 makes the handshake byte. -/
theorem uploadSound_recordSeed (r : Half) {t : State} (ht : UploadSound t) (hp : t.phase = .palette) :
    UploadSound (recordSeed r t) := by
  obtain ⟨hsplit, hcrc⟩ : Asked .palette t := hp ▸ asked_of_uploadSound ht
  exact uploadSound_of_asked .handshake rfl ⟨hsplit, hcrc, handshakeByte_eq _⟩

/-- The two forms of the seed word (R101). -/
theorem cipherIv_eq (seed : Byte) : cipherIv seed = 0xFFFF#16 ++ seed ++ 0xD1#8 := rfl

/-- The end of phase 9 starts the cipher; at least 64 words are to be sent. -/
theorem uploadSound_startMain (r : Half) {t : State} (ht : UploadSound t) (hp : t.phase = .length)
    (hx : t.xhalf = false) : UploadSound (startMain r t) := by
  obtain ⟨hsplit, hcrc, hhsb⟩ : Asked .length t := hp ▸ asked_of_uploadSound ht
  have hlt : 0 < t.nwords.toNat := by
    obtain ⟨hmin, -, -, hwords, -⟩ := hsplit
    omega
  refine uploadSound_of_asked .main rfl ⟨hsplit, hcrc, hhsb, hlt, ?_⟩
  have hzero : (startMain r t).pidx.toNat + (startMain r t).xhalf.toNat = 0 := by
    rw [show (startMain r t).xhalf = false from hx]
    rfl
  rw [hzero]
  exact ⟨cipherIv_eq t.seed, rfl⟩

/-- The end of phase 11 feeds the seal to the CRC, once. -/
theorem uploadSound_sealCrc {t : State} (ht : UploadSound t) (hp : t.phase = .prepCrc) : UploadSound (sealCrc t) := by
  obtain ⟨hsplit, hcrc, hrest⟩ : Asked .prepCrc t := hp ▸ asked_of_uploadSound ht
  refine uploadSound_of_asked .sendCrc rfl ⟨hsplit, ?_, hrest⟩
  show crcBytes t.crc (sealBytes t.hsb t.fcb) = crcBytes 0xC387#16 (payloadBytes t.p ++ sealBytes t.hsb t.fcb)
  rw [crcBytes_append, ← hcrc]

/-- What the response of an instruction outside phase 10 does keeps the data part. -/
theorem uploadSound_onResponse {i : Instr} {s t : State} (r : Half) (h : inPlace i t = true) (hm : t.phase ≠ .main)
    (hx : t.xhalf = false) (ht : UploadSound t) : UploadSound (onResponse i s r t) := by
  have moved (p q : Phase) {u : State} (hp : t.phase = p) (hu : u.phase = q) (hpq : ∀ s : State, Asked p s → Asked q s)
      (hxu : u.xhalf = t.xhalf) (hdata : dataFields u = dataFields t) : UploadSound u :=
    uploadSound_movedTo p q ht hp hu hpq (.inl hxu) hdata
  have ended {u : State} (hu : u.phase = .idle) : UploadSound u := uploadSound_of_asked .idle hu trivial
  cases i <;> simp [inPlace] at h <;> simp only [onResponse]
  case xfer | xfer16 | xfer32 => exact ended rfl
  case sendd => exact uploadSound_demand (ended rfl)
  case sendu => exact uploadSound_poll ht (ended rfl)
  case wPoll =>
    split
    next hp => exact uploadSound_discoverResponse r ht hp
    next hp => exact uploadSound_stabilizeResponse r ht (h.resolve_left hp)
  case wPr1 => exact uploadSound_demand (moved .pr1 .headers h rfl (fun _ h => h) rfl rfl)
  case wHdr => exact uploadSound_demand (moved .headers .headers h.1 h.1 (fun _ h => h) rfl rfl)
  case wHdrend => exact uploadSound_demand (moved .headers .pr2 h.1 rfl (fun _ h => h) rfl rfl)
  case wPr2 => exact uploadSound_demand (moved .pr2 .palette h rfl (fun _ h => h) rfl rfl)
  case wPal => exact uploadSound_poll ht (uploadSound_recordSeed r ht h)
  case wHs => exact uploadSound_demand (moved .handshake .fixedDelay h rfl (fun _ h => h) rfl rfl)
  case wLen => exact uploadSound_demand (uploadSound_startMain r ht h hx)
  case wData => exact absurd h.1 hm
  case wCrcreq => exact uploadSound_poll ht (moved .prepCrc .prepCrc h.1 h.1 (fun _ h => h) rfl rfl)
  case wCrcgo => exact uploadSound_demand (uploadSound_sealCrc ht h.1)
  case wCrc => exact uploadSound_demand (moved .sendCrc .done h rfl (fun _ h => h) rfl rfl)

/-! ### Phase 10 -/

theorem posAfter_succ (n : Nat) : posAfter (n + 1) = posAfter n - Config.posStep := by
  rw [posAfter, posAfter, Nat.mul_succ, BitVec.ofNat_add, sub_sub]

/-- One more word of the cipher (R150, R154). -/
theorem cipherAt_cipherAdvance {n : Nat} {s : State} (h : CipherAt n s) : CipherAt (n + 1) (cipherAdvance s) := by
  obtain ⟨hlcg, hpos⟩ := h
  refine ⟨congrArg lcgNext hlcg, ?_⟩
  rw [cipherAdvance_pos, hpos, posAfter_succ]

/-- With the word of phase 10 in flight the cipher is one word ahead: it has advanced with the write half (R234). -/
theorem uploadSound_wordInFlight {s : State} (hs : UploadSound s) (hp : s.phase = .main) (d : Word) :
    UploadSound { beforeTransfer (.wData d) s with xhalf := true } := by
  rw [beforeTransfer_wData]
  split
  next hx => exact uploadSound_of_kept hs rfl (.inl hx.symm) rfl
  next hx =>
    obtain ⟨hsplit, hcrc, hhsb, hlt, hcipher⟩ : Asked .main s := hp ▸ asked_of_uploadSound hs
    rw [Bool.eq_false_iff.2 hx] at hcipher
    exact uploadSound_of_asked .main hp ⟨hsplit, hcrc, hhsb, hlt, cipherAt_cipherAdvance hcipher⟩

/-- The response counts the word that was in flight; after the last one phase 10 ends. -/
theorem uploadSound_dataSent {t : State} (ht : UploadSound { t with xhalf := true }) (hp : t.phase = .main)
    (hx : t.xhalf = false) : UploadSound (dataSent t) := by
  obtain ⟨hsplit, hcrc, hhsb, hlt, hcipher⟩ : Asked .main { t with xhalf := true } := hp ▸ asked_of_uploadSound ht
  have hlt' : t.pidx.toNat < t.nwords.toNat := hlt
  have hsucc : (t.pidx + 1#16).toNat = t.pidx.toNat + 1 := by bv_omega
  have hcipher' : CipherAt (t.pidx + 1#16).toNat t := by
    rw [hsucc]
    exact hcipher
  unfold dataSent
  split
  next hlast => exact uploadSound_of_asked .prepCrc rfl ⟨hsplit, hcrc, hhsb, hlast, hcipher'⟩
  next hmore =>
    refine uploadSound_of_asked .main hp ⟨hsplit, hcrc, hhsb, ?_, ?_⟩
    · show (t.pidx + 1#16).toNat < t.nwords.toNat
      bv_omega
    · show CipherAt ((t.pidx + 1#16).toNat + t.xhalf.toNat) t
      rw [hx]
      exact hcipher'

/-- Each half of a data word's transfer keeps the data part. -/
theorem uploadSound_dataTransfer {s : State} (hs : UploadSound s) (hp : s.phase = .main) (d w : Word) :
    UploadSound (transfer w (fun _ t => dataSent t) (beforeTransfer (.wData d) s)) := by
  have hfly : UploadSound { beforeTransfer (.wData d) s with xhalf := true } := uploadSound_wordInFlight hs hp d
  have hphase : (beforeTransfer (.wData d) s).phase = .main := (phase_beforeTransfer _ s).trans hp
  apply transfer_spec (motive := UploadSound)
  case wrote => exact fun _ _ => uploadSound_of_kept hfly rfl (.inl rfl) rfl
  case frame =>
    intro _ _ _ _ _ _ _
    exact uploadSound_dataSent (uploadSound_of_kept hfly rfl (.inl rfl) rfl) hphase rfl
  case waiting => exact fun hx _ => uploadSound_of_kept hfly rfl (.inl hx) rfl
  case writeFailed => exact fun _ _ => uploadSound_raise _ _
  case failed => exact fun _ _ _ _ => uploadSound_raise _ _
  case ended => exact fun _ _ _ _ => uploadSound_raise _ _

/-! ### Instructions and moves -/

theorem eq_wData_of_inPlace_main {i : Instr} {s : State} (h : inPlace i s = true) (hp : s.phase = .main) :
    ∃ d, i = .wData d := by
  cases i <;> simp [inPlace, hp] at h
  exact ⟨_, rfl⟩

theorem beforeTransfer_of_ne_main {i : Instr} {s : State} (h : inPlace i s = true) (hm : s.phase ≠ .main) :
    beforeTransfer i s = s := by
  rcases beforeTransfer_cases i s with ⟨hb, -⟩ | ⟨-, -, d, rfl⟩
  · exact hb
  · simp [inPlace, hm] at h

/-- Each half of an instruction's transfer keeps the data part. -/
theorem uploadSound_inPlace_transfer {i : Instr} {s : State} (hs : UploadSound s) (h : inPlace i s = true) :
    UploadSound (transfer (sentWord i s) (onResponse i s) (beforeTransfer i s)) := by
  by_cases hm : s.phase = .main
  · obtain ⟨d, rfl⟩ := eq_wData_of_inPlace_main h hm
    exact uploadSound_dataTransfer hs hm d _
  · rw [beforeTransfer_of_ne_main h hm]
    refine uploadSound_transfer hs hm fun r rx tr => ?_
    exact uploadSound_onResponse r ((inPlace_readDone i s rx tr).trans h) hm rfl
      (uploadSound_of_kept hs rfl (.inr hm) rfl)

/-- An accepted UPLOAD has split the image and fed its payload to the CRC (R170, R221). -/
theorem uploadSound_startPhases {s : State} (h : sizeError s.len = none) : UploadSound (startPhases (loadImage s)) := by
  obtain ⟨hmin, hmax, hcount⟩ := payload_size h
  have hplen : (loadImage s).plen.toNat = paddedLength s.len := plen_loadImage h
  have hnwords : (loadImage s).nwords.toNat = payloadCount s.len := Nat.mod_eq_of_lt (by omega)
  have hp : (loadImage s).p.length = payloadCount s.len := by simp [loadImage, imagePayload]
  have hmod : paddedLength s.len % 16 = 0 := Nat.mul_mod_left _ _
  refine uploadSound_of_asked .discover rfl ⟨?_, imageCrc_eq s.img s.len⟩
  show Split (loadImage s)
  rw [Split, hplen, hnwords, hp]
  omega

theorem uploadSound_refuse {s : State} (hs : UploadSound s) : UploadSound (refuse s) :=
  uploadSound_of_kept hs rfl (.inl rfl) rfl

/-- Of the accepted commands only UPLOAD leads to a phase that asks for anything. -/
theorem uploadSound_accepted (i : Instr) {s : State} (hs : UploadSound s) : UploadSound (accepted i s) := by
  cases i
  case reservedD | reservedE => exact uploadSound_refuse hs
  case xfer | xfer16 | xfer32 | sendd | sendu | delay => exact uploadSound_of_asked .unit rfl trivial
  case romBuild =>
    apply buildThen_spec (motive := UploadSound)
    case rejected => exact fun e _ => uploadSound_raise e _
    case built => exact fun _ => uploadSound_of_asked .idle rfl trivial
  case upload =>
    apply buildThen_spec (motive := UploadSound)
    case rejected => exact fun e _ => uploadSound_raise e _
    case built => exact uploadSound_startPhases
  all_goals exact uploadSound_of_asked .idle rfl trivial

/-- Every instruction keeps the data part. -/
theorem uploadSound_exec {i : Instr} {s t : State} (hs : UploadSound s) (h : exec i s = .next t) : UploadSound t := by
  rcases exec_next_cases h with ⟨-, -, rfl⟩ | ⟨-, -, rfl⟩ | ⟨-, -, -, rfl⟩ | ⟨d, -, -, -, rfl⟩ | ⟨hp, -, rfl⟩
  case inl => exact uploadSound_accepted i hs
  case inr.inl => exact uploadSound_refuse hs
  case inr.inr.inl => exact uploadSound_of_asked .idle rfl trivial
  case inr.inr.inr.inl => exact uploadSound_of_kept hs rfl (.inl rfl) rfl
  case inr.inr.inr.inr => exact uploadSound_inPlace_transfer hs hp

/-- The block's turn without a word: in a sound state phase 10 has one, so only phase 8 moves on. -/
theorem uploadSound_turnWithoutWord {s t : State} (hs : UploadSound s) (h : turnWithoutWord s = .next t) :
    UploadSound t := by
  rcases turnWithoutWord_next h with ⟨hp, rfl⟩ | ⟨hp, hle, -⟩ | ⟨-, -, rfl⟩
  · exact uploadSound_movedTo .fixedDelay .length hs hp rfl (fun _ h => h) (.inl rfl) rfl
  · exact absurd (hs.sending hp) (Nat.not_lt.2 hle)
  · exact hs

theorem dataFields_hostWrite (r : HostReg) (v : Word) (s : State) : dataFields (hostWrite r v s) = dataFields s := by
  unfold hostWrite
  split
  · split <;> rfl
  · cases r <;> rfl

theorem dataFields_hostRead (r : HostReg) (s : State) : dataFields (hostRead r s) = dataFields s := by
  rcases hostRead_cases r s with ⟨v, -, h⟩ | ⟨-, v, -, h⟩ <;> rw [h] <;> rfl

theorem dataFields_hostImage (k : Nat) (b : Byte) (s : State) : dataFields (hostImage k b s) = dataFields s := by
  unfold hostImage
  split_ifs <;> rfl

/-- The moves of the host change neither the control fields nor the data of an upload. -/
theorem uploadSound_of_controlFields {s t : State} (hs : UploadSound s) (hc : controlFields t = controlFields s)
    (hd : dataFields t = dataFields s) : UploadSound t := by
  simp only [controlFields, Prod.mk.injEq] at hc
  obtain ⟨hphase, hxhalf, -⟩ := hc
  exact uploadSound_of_kept hs hphase (.inl hxhalf) hd

/-- Every move that runs no instruction keeps the data part. -/
theorem uploadSound_otherMove {m : Input} {s t : State} (hs : UploadSound s) (h : otherMove m s = .next t) :
    UploadSound t := by
  cases m with
  | turn => exact uploadSound_turnWithoutWord hs h
  | hostWrite r v =>
    cases h
    exact uploadSound_of_controlFields hs (controlFields_hostWrite r v s) (dataFields_hostWrite r v s)
  | hostRead r =>
    cases h
    exact uploadSound_of_controlFields hs (controlFields_hostRead r s) (dataFields_hostRead r s)
  | hostImage k b =>
    cases h
    exact uploadSound_of_controlFields hs (controlFields_hostImage k b s) (dataFields_hostImage k b s)
  | deliver x => cases h; exact uploadSound_of_controlFields hs rfl rfl
  | failNextWrite => cases h; exact uploadSound_of_controlFields hs rfl rfl
  | drainLink =>
    simp only [otherMove] at h
    split at h <;> cases h
    exact uploadSound_of_controlFields hs rfl rfl
  | reset w =>
    cases h
    exact uploadSound_of_asked .idle (phase_of_controlFields (controlFields_resetInput w s)) trivial

/-- Settles O57: the step runs an instruction or makes a move without one, and both keep the data part. -/
theorem stepKeepsUploadSound : Obligations.StepKeepsUploadSound := by
  intro s t hs h
  have hpop : UploadSound s.pop := uploadSound_of_controlFields hs rfl rfl
  rcases step_next_cases h with ⟨i, -, hi⟩ | ⟨-, hm⟩
  · exact uploadSound_exec hpop hi
  · exact uploadSound_otherMove hpop hm

end Sys2Proof.EncodingProofs

namespace Sys2Proof.EncodingProofs

open Sys2Proof.Machine Sys2Proof.StateProofs Sys2Proof.MemoryProofs

/-! ### Decoding and encoding -/

/-- A command encodes to the byte of its opcode (R110). -/
theorem encode_command {i : Instr} {op : BitVec 4} (h : i.opcode? = some op) : encode i = [op.setWidth 8] := by
  rw [encode, h]

/-- A wire word encodes to its frame (R91). -/
theorem encode_wire {i : Instr} (h : i.opcode? = none) : encode i = frameBytes i.word := by
  rw [encode, h]

/-- Opcodes and commands match one to one (R111). -/
theorem opcode_eq_some_iff {i : Instr} {op : BitVec 4} : i.opcode? = some op ↔ decodeOpcode op = i := by
  have hop : (decodeOpcode op).opcode? = some op := by
    revert op
    decide
  constructor
  · intro h
    cases i <;> cases h <;> rfl
  · rintro rfl
    exact hop

theorem ctx_of_opcode {i : Instr} {op : BitVec 4} (h : i.opcode? = some op) : i.ctx = .cmd := by
  cases i <;> cases h <;> rfl

/-- A wire word belongs to the context of its row (R96). -/
theorem ctx_wire {i : Instr} (h : i.opcode? = none) : ∃ c, i.ctx = .wire c := by
  cases i <;> cases h <;> exact ⟨_, rfl⟩

theorem opcode_of_ctx_wire {i : Instr} {c : WireCtx} (h : i.ctx = .wire c) : i.opcode? = none := by
  cases i <;> cases h <;> rfl

/-- In its context the decoder reads a wire word back from its word (R96). -/
theorem decodeWire_word {i : Instr} {c : WireCtx} (h : i.ctx = .wire c) : decodeWire c i.word = .ok i := by
  cases i <;> cases h
  case wHdr | wLen | wCrc => exact decodeOpen16_zext16 _ _ _
  case wHs b => exact decodeWire_handshake b
  all_goals rfl

/-- Settles O1: a command by its opcode, a wire word by its frame. -/
theorem decodeOfEncodeIsTheInstruction : Obligations.DecodeOfEncodeIsTheInstruction := by
  intro i _
  cases ho : i.opcode? with
  | some op => rw [ctx_of_opcode ho, encode_command ho, decode_cmd, opcode_eq_some_iff.1 ho]
  | none =>
    obtain ⟨c, hc⟩ := ctx_wire ho
    rw [hc, encode_wire ho, decode_frameBytes, decodeWire_word hc]

theorem wellFormed_all (i : Instr) : i.wellFormed = true := by
  cases i <;> rfl

/-- The frame of four bytes put together. -/
theorem frameBytes_frameWord (c0 c1 c2 c3 : Byte) : frameBytes (frameWord c0 c1 c2 c3) = [c0, c1, c2, c3] := by
  have h := congrArg List.reverse (bytes_of_append c3 c2 c1 c0)
  simpa [frameBytes, frameWord] using h

theorem decodeFixed_ok {c : WireCtx} {word : Half} {i j : Instr} {w : Word} (h : decodeFixed c word i w = .ok j) :
    j = i ∧ zext16 word = w := by
  unfold decodeFixed at h
  split at h
  next hw => cases h; exact ⟨rfl, hw.symm⟩
  next => cases h

/-- A word whose upper half is zero is its lower half, zero-extended (R92). -/
theorem zext16_low_half {w : Word} (h : w.extractLsb' 16 16 = 0#16) : zext16 (w.extractLsb' 0 16) = w := by
  have hn := congrArg BitVec.toNat h
  apply BitVec.eq_of_toNat_eq
  simp [zext16, Nat.shiftRight_eq_div_pow] at hn ⊢
  omega

theorem decodeOpen16_ok {c : WireCtx} {mk : Half → Instr} {j : Instr} {w : Word}
    (h : decodeOpen16 c mk w = .ok j) : ∃ x : Half, j = mk x ∧ zext16 x = w := by
  unfold decodeOpen16 at h
  split at h
  next hw => cases h; exact ⟨_, rfl, zext16_low_half hw⟩
  next => cases h

theorem toNat_handshakeWord (b : Byte) : (handshakeWord b).toNat = 0x6400 + b.toNat := by
  revert b
  decide

/-- A word with the handshake's upper bytes is the handshake word of its low byte (R98). -/
theorem handshakeWord_low_byte {w : Word} (h : w.extractLsb' 8 24 = 0x64#24) :
    zext16 (handshakeWord (w.extractLsb' 0 8)) = w := by
  have hn := congrArg BitVec.toNat h
  apply BitVec.eq_of_toNat_eq
  simp [zext16, toNat_handshakeWord, Nat.shiftRight_eq_div_pow] at hn ⊢
  omega

/-- A word that decodes in a context is the word of an instruction of that context (R96). -/
theorem ctx_word_of_decodeWire {c : WireCtx} {w : Word} {i : Instr} (h : decodeWire c w = .ok i) :
    i.ctx = .wire c ∧ i.word = w := by
  cases c <;> simp only [decodeWire] at h
  case hdr | len | crc =>
    obtain ⟨x, rfl, hx⟩ := decodeOpen16_ok h
    exact ⟨rfl, hx⟩
  case hs =>
    split at h
    next hw => cases h; exact ⟨rfl, handshakeWord_low_byte hw⟩
    next => cases h
  case data => cases h; exact ⟨rfl, rfl⟩
  all_goals
    obtain ⟨rfl, hw⟩ := decodeFixed_ok h
    exact ⟨rfl, hw⟩

/-- The byte that `CMD` keeps of a command byte. -/
theorem low_nibble (b : Byte) : ((b.setWidth 4 : BitVec 4).setWidth 8 : Byte) = b &&& 0x0F#8 := by
  revert b
  decide

/-- Settles O2: a command byte up to the bits that CMD drops, a frame by its word. -/
theorem decodedBytesAreTheEncoding : Obligations.DecodedBytesAreTheEncoding := by
  intro c bytes i h
  unfold decode at h
  split at h
  next b =>
    have ho : i.opcode? = some (b.setWidth 4) := opcode_eq_some_iff.2 (Except.ok.inj h)
    refine ⟨ctx_of_opcode ho, wellFormed_all i, fun hc => absurd rfl hc, fun _ => ⟨b, rfl, ?_⟩⟩
    rw [encode_command ho, low_nibble]
  next c c0 c1 c2 c3 =>
    obtain ⟨hc, hw⟩ := ctx_word_of_decodeWire h
    refine ⟨hc, wellFormed_all i, fun _ => ?_, fun hcmd => by cases hcmd⟩
    rw [encode_wire (opcode_of_ctx_wire hc), hw, frameBytes_frameWord]
  next => cases h

/-- Settles O3: by evaluation of the decoder. -/
theorem sampleWordsDecode : Obligations.SampleWordsDecode := by
  unfold Obligations.SampleWordsDecode
  decide

/-! ### What the next step fetches -/

/-- Settles O4: the step is defined by what it fetches. -/
theorem stepRunsTheDecodedInstruction : Obligations.StepRunsTheDecodedInstruction := by
  intro s c bytes i hf hd
  simp only [step, hf, hd]
  rfl

end Sys2Proof.EncodingProofs

namespace Sys2Proof.EncodingProofs

open Sys2Proof.Machine Sys2Proof.StateProofs Sys2Proof.MemoryProofs

/-- The handshake word as its two bytes (R98). -/
theorem handshakeWord_eq (b : Byte) : handshakeWord b = 0x64#8 ++ b := by
  revert b
  decide

theorem frameBytes_handshakeWord (b : Byte) : frameBytes (zext16 (handshakeWord b)) = [0x00#8, 0x00#8, 0x64#8, b] := by
  have hlow : (0x64#8 ++ b : Half).extractLsb' 0 8 = b := BitVec.extractLsb'_append_eq_right
  rw [frameBytes_zext16, handshakeWord_eq, high_append, hlow]

/-- On its turn the sequencer fetches the frame of the word it is at. -/
theorem fetchBytes_of_nextWire {s : State} {c : WireCtx} {w : Word} {bytes : List Byte} (ht : s.nextMove = .turn)
    (hw : nextWire s = some (c, w)) (hb : frameBytes w = bytes) : fetchBytes s = some (.wire c, bytes) := by
  have hp : s.phase ≠ .unit := by
    intro hp
    simp [nextWire, hp] at hw
  simp [fetchBytes, ht, blockFetch, hp, hw, hb]

/-- Settles O5: a command write by its opcode, the block's turn phase by phase. -/
theorem sequencerFetchesTheFrameOfItsPhase : Obligations.SequencerFetchesTheFrameOfItsPhase := by
  intro s
  refine ⟨fun v hb hm => ?_, fun ht => ?_⟩
  · have hf : fetchBytes s = some (.cmd, [v.setWidth 8]) := by simp [fetchBytes, hm, hb]
    refine ⟨hf, fun i hi => stepRunsTheDecodedInstruction s _ _ i hf ?_⟩
    rw [decode_cmd_word, opcode_eq_some_iff.1 hi]
  have word {c : WireCtx} {w : Word} {bytes : List Byte} (hw : nextWire s = some (c, w)) (hb : frameBytes w = bytes) :
      fetchBytes s = some (.wire c, bytes) := fetchBytes_of_nextWire ht hw hb
  refine ⟨?discover, fun hp => ?pr1, fun hp hi => ?hdr, fun hp hi => ?hdrend, fun hp => ?pr2, fun hp => ?palette,
    fun hp => ?handshake, fun hp => ?length, fun hp hx hlt src hsrc => ?main, fun hp hs => ?crcreq,
    fun hp hs => ?crcgo, fun hp => ?sendCrc, fun hp => ?unit⟩
  case discover => rintro (hp | hp) <;> exact word (by rw [nextWire, hp]) rfl
  case pr1 | pr2 | palette => exact word (by rw [nextWire, hp]) rfl
  case hdr => exact word (by simp [nextWire, hp, hi]) (frameBytes_zext16 _)
  case hdrend => exact word (w := zext16 0x6200#16) (by simp [nextWire, hp, hi]) rfl
  case handshake => exact word (by rw [nextWire, hp]) (frameBytes_handshakeWord s.hsb)
  case length => exact word (w := zext16 (lengthWord s.nwords)) (by rw [nextWire, hp]) (frameBytes_zext16 _)
  case main => exact word (w := cipherOut s.lcg s.pos src) (by simp [nextWire, hp, hlt, hsrc, dataWord, hx]) rfl
  case crcreq => exact word (w := zext16 0x0065#16) (by simp [nextWire, hp, hs]) rfl
  case crcgo => exact word (w := zext16 0x0066#16) (by simp [nextWire, hp, hs]) rfl
  case sendCrc => exact word (by rw [nextWire, hp]) (frameBytes_zext16 _)
  case unit => simp [fetchBytes, ht, blockFetch, hp]

/-! ### Write halves -/

/-- The write half of an instruction in its place puts its frame on the link. -/
theorem exec_write {i : Instr} {s : State} (h : inPlace i s = true) (hw : pollDelay i s = none ∨ s.wait = false)
    (hx : s.xhalf = false) (hf : s.txFail = false) :
    exec i s = .next { beforeTransfer i s with xhalf := true, trace := s.trace ++ [.wrote (frameSent i s)] } := by
  obtain ⟨x, y, hb⟩ := beforeTransfer_eq i s
  rw [exec_inPlace_transfer h hw, frameSent_eq h, hb]
  exact congrArg _ (transfer_write hx hf)

/-- Settles O19: each unit command in its place, before its read half. -/
theorem unitWriteHalfSendsTheFrame : Obligations.UnitWriteHalfSendsTheFrame := by
  intro s hp hx hw hf sent word half
  have write {i : Instr} (h : inPlace i s = true) := exec_write h (.inr hw) hx hf
  refine ⟨fun hc => ?_, fun hc => ?_, fun hc => ?_, fun hc => ?_, fun hc => ?_⟩ <;>
    exact write (by simp [inPlace, hp, hc])

/-- The frame of a wire word in its place is that of its row (R96). -/
theorem frameSent_wire {i : Instr} {s : State} (hi : i.opcode? = none) : frameSent i s = frameBytes i.word := by
  cases i <;> cases hi <;> rfl

/-- Settles O26: only the word of phase 10 has the cipher advance before it. -/
theorem wireWordsAreSentAsTheirFrames : Obligations.WireWordsAreSentAsTheirFrames := by
  intro i s h hu hx hw hf
  rw [exec_write h (.inr hw) hx hf, frameSent_wire (opcode_of_inPlace h hu)]
  by_cases hm : s.phase = .main
  · obtain ⟨d, rfl⟩ := eq_wData_of_inPlace_main h hm
    rw [beforeTransfer_wData, if_neg (Bool.eq_false_iff.1 hx), if_pos hm, if_pos hm]
    rfl
  · rw [beforeTransfer_of_ne_main h hm, if_neg hm, if_neg hm]
    rfl

/-! ### Read halves -/

/-- The read half of an instruction in its place, four bytes being there: its response takes effect. -/
theorem exec_response {i : Instr} {s : State} {c0 c1 c2 c3 : Byte} {rest : List RxItem} (h : inPlace i s = true)
    (hw : pollDelay i s = none ∨ s.wait = false) (hx : s.xhalf = true)
    (hr : s.rx = .byte c0 :: .byte c1 :: .byte c2 :: .byte c3 :: rest) :
    exec i s = .next (onResponse i s (c0 ++ c1)
      { s with rx := rest, xhalf := false, trace := s.trace ++ [.took [c0, c1, c2, c3]] }) := by
  rw [exec_inPlace_transfer h hw, beforeTransfer_of_xhalf i hx, transfer_read hx hr]

/-- Response matching: both sides are masked (R95). -/
theorem responseMatches_iff (r e m : Half) : responseMatches r e m = true ↔ r &&& m = e &&& m := by
  simp [responseMatches]

/-- A demanded response as a choice between its two ends. -/
theorem demand_eq (w e m : Half) (k : Half → State → State) (r : Half) (t : State) :
    demand w e m k r t = if r &&& m = e &&& m then k r t else raise (.unexpected w e m r) t := by
  simp only [demand, responseMatches_iff]

theorem demand_matched {w e m r : Half} {k : Half → State → State} {t : State} (h : responseMatches r e m = true) :
    demand w e m k r t = k r t :=
  if_pos h

/-- Settles O20: the response becomes RES, or is dropped. -/
theorem xferReturnsTheHighHalf : Obligations.XferReturnsTheHighHalf := by
  intro s c0 c1 c2 c3 rest hp hx hr base
  refine ⟨fun hc => ?_, fun hc => ?_, fun hc => ?_⟩ <;>
    exact exec_response (by simp [inPlace, hp, hc]) (.inl rfl) hx hr

/-- Settles O21: a demanded response in PHASE UNIT. -/
theorem senddDemandsTheResponse : Obligations.SenddDemandsTheResponse := by
  intro s c0 c1 c2 c3 rest hp hc hx hr r base e
  rw [exec_response (by simp [inPlace, hp, hc]) (.inl rfl) hx hr]
  simp only [onResponse, demand_eq]
  by_cases hm : r &&& s.opc = s.opb &&& s.opc
  · rw [if_pos hm, if_pos hm]
    rfl
  · rw [if_neg hm, if_neg hm, State.opaHalf, low_half]
    simp only [raise, ErrKind.record, hp]
    rfl

/-- Settles O22: a polled response in PHASE UNIT. -/
theorem senduRepeatsUntilTheResponse : Obligations.SenduRepeatsUntilTheResponse := by
  intro s hp hc
  have hplace : inPlace .sendu s = true := by simp [inPlace, hp, hc]
  refine ⟨fun hw => exec_inPlace_delay hplace rfl hw, fun c0 c1 c2 c3 rest hw hx hr => ?_⟩
  rw [exec_response hplace (.inr hw) hx hr]
  simp only [onResponse, poll, responseMatches_iff]
  by_cases hm : (c0 ++ c1) &&& s.opc = s.opb &&& s.opc
  · rw [if_pos hm, if_pos hm]
    rfl
  · rw [if_neg hm, if_neg hm]
    by_cases hd : s.opd = 0#32 <;> simp [hd, hw]

/-- Settles O24: both reserved commands are refused outright. -/
theorem reservedOpcodesAreRefused : Obligations.ReservedOpcodesAreRefused :=
  fun _ => ⟨rfl, rfl⟩

/-- A command write while the block is busy is no instruction (R113). -/
theorem nextInstr_of_commandWrite_busy {s : State} {v : Word} (hm : s.nextMove = .hostWrite .cmd v)
    (hb : s.busy = true) : nextInstr s = none := by
  simp [nextInstr, hm, hb]

theorem hostWrite_cmd_busy {s : State} (v : Word) (hb : s.busy = true) : hostWrite .cmd v s = refuse s := by
  simp [hostWrite, hb]

/-- Every accepted command but the reserved ones clears REFUSED (R113). -/
theorem refused_accepted {i : Instr} (s : State) (hD : i ≠ .reservedD) (hE : i ≠ .reservedE) :
    (accepted i s).refused = false := by
  cases i
  case reservedD => exact absurd rfl hD
  case reservedE => exact absurd rfl hE
  case romBuild | upload =>
    apply buildThen_spec (motive := fun t => t.refused = false)
    case rejected => exact fun _ _ => rfl
    case built => exact fun _ => rfl
  all_goals rfl

/-- Settles O25: the busy block refuses the write, the idle one accepts the command. -/
theorem commandWhileBusyIsRefused : Obligations.CommandWhileBusyIsRefused := by
  refine ⟨fun s v l hb h => ?_, fun i s t hb _ hD hE h => ?_⟩
  · have hm : s.nextMove = .hostWrite .cmd v := nextMove_of_inputs h
    rw [step_of_none (nextInstr_of_commandWrite_busy hm hb), otherStep, hm, pop_of_inputs h, otherMove,
      hostWrite_cmd_busy (s := { s with inputs := l }) v hb]
    rfl
  · rw [exec_idle_eq_accepted hb h]
    exact refused_accepted s hD hE

/-- A response of two bytes as a number. -/
theorem toNat_response (c0 c1 : Byte) : (c0 ++ c1 : Half).toNat = c0.toNat * 256 + c1.toNat := by
  rw [BitVec.toNat_append, Nat.shiftLeft_eq, Nat.mul_comm, ← Nat.two_pow_add_eq_or_of_lt c1.isLt]

/-- Settles O30: the response is the one demanded, and HIDX advances. -/
theorem headerWordsCountDown : Obligations.HeaderWordsCountDown := by
  intro s h c0 c1 c2 c3 rest hp hx hlt hr h0 h1
  have hmatch : responseMatches (c0 ++ c1) (headerResponse s.hidx) 0xFFFF#16 = true := by
    rw [matches_full, headerResponse_eq _ hlt, decide_eq_true_iff]
    apply BitVec.eq_of_toNat_eq
    rw [toNat_response, h0, h1, BitVec.toNat_ofNat, BitVec.toNat_ofNat]
    omega
  have hsucc : s.hidx + 1#7 = BitVec.ofNat 7 (s.hidx.toNat + 1) := by bv_omega
  rw [exec_response (by simp [inPlace, hp, hlt]) (.inl rfl) hx hr]
  simp only [onResponse, demand_matched hmatch, hsucc]

/-- The seed word of R101 as shifts. -/
theorem cipherIv_eq_shifts (seed : Byte) :
    cipherIv seed = (0xFF#32 <<< 24) ||| (0xFF#32 <<< 16) ||| (seed.setWidth 32 <<< 8) ||| 0xD1#32 := by
  revert seed
  decide

/-- Settles O33: the low byte is recorded and the cipher starts from the seed word. -/
theorem lengthRecordsTheFinalByteAndStartsTheCipher : Obligations.LengthRecordsTheFinalByteAndStartsTheCipher := by
  rintro s n c0 c1 c2 c3 rest hp hx hr rfl
  rw [exec_response (by simp [inPlace, hp]) (.inl rfl) hx hr]
  simp only [onResponse]
  rw [demand_matched (by rw [matches_high]; rfl), startMain, low_append, ← cipherIv_eq_shifts]
  rfl

/-- A demanded response that does not match, as the read half leaves it (R273, R280). -/
theorem exec_unexpected {i : Instr} {s : State} {c0 c1 c2 c3 : Byte} {rest : List RxItem} {w e m : Half}
    {k : Half → State → State} (p : Phase) (hp : s.phase = p) (h : inPlace i s = true) (hd : pollDelay i s = none)
    (hx : s.xhalf = true) (hr : s.rx = .byte c0 :: .byte c1 :: .byte c2 :: .byte c3 :: rest)
    (hk : onResponse i s = demand w e m k) (hm : responseMatches (c0 ++ c1) e m = false) :
    exec i s = .next
      { s with
        rx := rest, xhalf := false, wait := false, err := (ErrKind.unexpected w e m (c0 ++ c1)).record p
        phase := .error
        trace := s.trace ++ [.took [c0, c1, c2, c3], .error ((ErrKind.unexpected w e m (c0 ++ c1)).record p)] } := by
  subst hp
  rw [exec_response h (.inl hd) hx hr, hk, demand, if_neg (Bool.eq_false_iff.1 hm)]
  simp [raise]

/-- Settles O37: at each site the response differs from the one demanded, in the bits that are compared. -/
theorem unexpectedResponseSites : Obligations.UnexpectedResponseSites := by
  intro s b w c0 c1 c2 c3 rest hx hr r failed
  have full {e : Half} (h : r ≠ e) : responseMatches r e 0xFFFF#16 = false := by
    rw [matches_full]
    exact decide_eq_false h
  have high (h : c0 ≠ 0x73#8) : responseMatches r 0x7300#16 0xFF00#16 = false := by
    rw [matches_high]
    exact decide_eq_false h
  have low (h : c1 ≠ 0x75#8) : responseMatches r 0x0075#16 0x00FF#16 = false := by
    rw [matches_low]
    exact decide_eq_false h
  refine ⟨fun hp h => ?pr1, fun hp hlt h => ?hdr, fun hp hi h => ?hdrend, fun hp h => ?pr2, fun hp h => ?hs,
    fun hp h => ?len, fun hp hs h => ?crcgo⟩
  case pr1 => exact exec_unexpected .pr1 hp (by simp [inPlace, hp]) rfl hx hr rfl (full h)
  case hdr =>
    rw [← headerResponse_eq _ hlt] at h ⊢
    exact exec_unexpected .headers hp (by simp [inPlace, hp, hlt]) rfl hx hr rfl (full h)
  case hdrend => exact exec_unexpected .headers hp (by simp [inPlace, hp, hi]) rfl hx hr rfl (full h)
  case pr2 => exact exec_unexpected .pr2 hp (by simp [inPlace, hp]) rfl hx hr rfl (full h)
  case hs =>
    rw [← handshakeWord_eq]
    exact exec_unexpected .handshake hp (by simp [inPlace, hp]) rfl hx hr rfl (high h)
  case len => exact exec_unexpected .length hp (by simp [inPlace, hp]) rfl hx hr rfl (high h)
  case crcgo => exact exec_unexpected .prepCrc hp (by simp [inPlace, hp, hs]) rfl hx hr rfl (low h)

end Sys2Proof.EncodingProofs

/-! PROOFS of the family 40_crc.md: the shift of the CRC register is linear, and a plain shift while only zeros fall out.
The equivalent forms of CRC.UPDATE (R135) follow. -/

namespace Sys2Proof.CrcProofs

open Sys2Proof.Machine

/-! ### The shift of the register -/

/-- What a bit that falls out adds to the shifted register (R132). -/
def feedback (out : Bool) : Half :=
  if out then 0xC37B#16 else 0#16

theorem feedback_xor (x y : Bool) : feedback (x ^^ y) = feedback x ^^^ feedback y := by
  cases x <;> cases y <;> rfl

theorem crcShift_eq_xor (c : Half) : crcShift c = (c >>> 1) ^^^ feedback (c.getLsbD 0) := by
  unfold crcShift feedback
  split <;> simp [Config.crcFeedbackLsb]

theorem crcShift_xor (c d : Half) : crcShift (c ^^^ d) = crcShift c ^^^ crcShift d := by
  simp only [crcShift_eq_xor, BitVec.ushiftRight_xor_distrib, BitVec.getLsbD_xor, feedback_xor]
  ac_rfl

theorem crcShifts_xor (n : Nat) (c d : Half) : crcShifts n (c ^^^ d) = crcShifts n c ^^^ crcShifts n d := by
  induction n generalizing c d with
  | zero => rfl
  | succ n ih => simp only [crcShifts, crcShift_xor, ih]

/-- A register whose low bits are 0 gets no feedback while they fall out. -/
theorem crcShifts_of_low_zero (n : Nat) (c : Half) (h : ∀ k < n, c.getLsbD k = false) : crcShifts n c = c >>> n := by
  induction n generalizing c with
  | zero => simp [crcShifts]
  | succ n ih =>
    have hstep : crcShift c = c >>> 1 := if_neg (by rw [h 0 (by omega)]; decide)
    rw [crcShifts, hstep, ih _ fun k hk => by simpa [Nat.add_comm] using h (k + 1) (by omega), ← BitVec.shiftRight_add,
      Nat.add_comm]

/-! ### The table form -/

/-- The register as its high part and its low byte. -/
theorem high_xor_low (c : Half) : (c >>> 8) <<< 8 ^^^ (c.setWidth 8).setWidth 16 = c := by
  ext i hi
  by_cases h : i < 8
  · simp [h, hi]
  · have hpos : 8 + (i - 8) = i := by omega
    simp [h, hi, hpos]

/-- Nothing of a byte is left after eight shifts. -/
theorem byte_ushiftRight_eight (b : Byte) : b.setWidth 16 >>> 8 = 0#16 := by
  ext i hi
  simp

/-- The high byte falls to the low place without feedback, so that eight shifts look at the low byte only. -/
theorem crcShifts_eight_eq_xor (x : Half) :
    crcShifts 8 x = x >>> 8 ^^^ crcShifts 8 ((x.setWidth 8).setWidth 16) := by
  have hhigh : crcShifts 8 ((x >>> 8) <<< 8) = x >>> 8 := by
    rw [crcShifts_of_low_zero 8 _ fun k hk => by simp [hk]]
    ext i hi
    simpa using BitVec.lt_of_getLsbD
  calc crcShifts 8 x
      = crcShifts 8 ((x >>> 8) <<< 8 ^^^ (x.setWidth 8).setWidth 16) := by rw [high_xor_low]
    _ = x >>> 8 ^^^ crcShifts 8 ((x.setWidth 8).setWidth 16) := by rw [crcShifts_xor, hhigh]

/-- Settles O10: the byte changes the low byte of the register only, whose shifts are the table's entry. -/
theorem crcTableFormAgrees : Obligations.CrcTableFormAgrees := by
  intro c b
  have hhigh : (c ^^^ b.setWidth 16) >>> 8 = c >>> 8 := by
    rw [BitVec.ushiftRight_xor_distrib, byte_ushiftRight_eight, BitVec.xor_zero]
  rw [crcByte, crcByte, crcShifts_eight_eq_xor, hhigh, BitVec.zero_xor]

/-! ### The form on the reversed register -/

theorem reverse_xor {w : Nat} (x y : BitVec w) : (x ^^^ y).reverse = x.reverse ^^^ y.reverse := by
  ext i hi
  simp [BitVec.getElem_reverse, BitVec.getMsbD_xor]

theorem reverse_ushiftRight {w : Nat} (x : BitVec w) (n : Nat) : (x >>> n).reverse = x.reverse <<< n := by
  ext i hi
  simp [BitVec.getElem_reverse, BitVec.getMsbD_ushiftRight, hi]

theorem reverse_byte_setWidth (b : Byte) : (b.setWidth 16).reverse = b.reverse.setWidth 16 <<< 8 := by
  ext i hi
  have hle : decide (8 ≤ i) = !decide (i < 8) := by simp only [← decide_not, Nat.not_lt]
  simp [BitVec.getElem_reverse, BitVec.getLsbD_reverse, hle]

/-- One shift of the reversed register (R135 (b)): left by one, with the polynomial of R130 when a 1 falls out. -/
def msbShift (x : Half) : Half :=
  if x.getLsbD 15 = true then (x <<< 1) ^^^ 0xDEC3#16 else x <<< 1

/-- The feedback constant is the reversed polynomial, and the bit that falls out is the reversed register's top bit. -/
theorem reverse_crcShift (c : Half) : (crcShift c).reverse = msbShift c.reverse := by
  have htop : c.reverse.getLsbD 15 = c.getLsbD 0 := BitVec.getLsbD_reverse
  have hpoly : Config.crcFeedbackLsb.reverse = 0xDEC3#16 := by decide
  rw [crcShift, msbShift, htop]
  split
  · rw [reverse_xor, reverse_ushiftRight, hpoly]
  · rw [reverse_ushiftRight]

/-- Settles O11: reversal carries each shift of the register to one of the reversed register. -/
theorem crcMsbFirstFormAgrees : Obligations.CrcMsbFirstFormAgrees := by
  intro c b
  have hcommute : Function.Semiconj BitVec.reverse crcShift msbShift := reverse_crcShift
  rw [crcByte, crcShifts_eq_iterate, hcommute.iterate_right 8, reverse_xor, reverse_byte_setWidth]
  rfl

/-! ### The bit-serial form -/

/-- One shift with bit `k` of the byte brought in (R135 (c)). -/
def serialShift (b : Byte) (x : Half) (k : Nat) : Half :=
  if (x.getLsbD 0 ^^ b.getLsbD k) = true then (x >>> 1) ^^^ 0xC37B#16 else x >>> 1

theorem serialShift_eq_xor (b : Byte) (x : Half) (k : Nat) :
    serialShift b x k = (x >>> 1) ^^^ feedback (x.getLsbD 0 ^^ b.getLsbD k) := by
  unfold serialShift feedback
  split <;> simp

/-- A register that already holds the byte from bit `k` on shifts as the serial one, and holds it from bit `k + 1` on. -/
theorem crcShift_xor_rest (b : Byte) (x : Half) (k : Nat) :
    crcShift (x ^^^ b.setWidth 16 >>> k) = serialShift b x k ^^^ b.setWidth 16 >>> (k + 1) := by
  have hbit : (x ^^^ b.setWidth 16 >>> k).getLsbD 0 = (x.getLsbD 0 ^^ b.getLsbD k) := by
    have hwide : (b.setWidth 16).getLsbD k = b.getLsbD k := by
      simpa using fun h => (BitVec.lt_of_getLsbD h).trans (by decide : 8 < 16)
    rw [BitVec.getLsbD_xor, BitVec.getLsbD_ushiftRight, Nat.add_zero, hwide]
  rw [crcShift_eq_xor, serialShift_eq_xor, hbit, BitVec.ushiftRight_xor_distrib, BitVec.shiftRight_add]
  ac_rfl

/-- Bringing the first `n` bits in one by one leaves the rest of the byte out of the register. -/
theorem crcShifts_eq_serial (b : Byte) (c : Half) (n : Nat) :
    crcShifts n (c ^^^ b.setWidth 16) = (List.range n).foldl (serialShift b) c ^^^ b.setWidth 16 >>> n := by
  rw [crcShifts_eq_iterate]
  induction n with
  | zero => simp
  | succ n ih => rw [Function.iterate_succ_apply', ih, crcShift_xor_rest, List.range_succ, List.foldl_concat]

/-- Settles O12: all eight bits have been brought in. -/
theorem crcBitSerialFormAgrees : Obligations.CrcBitSerialFormAgrees := by
  intro c b
  rw [crcByte, crcShifts_eq_serial, byte_ushiftRight_eight, BitVec.xor_zero]
  rfl

/-! ### The commands -/

theorem opaByte_eq (s : State) : s.opaByte = s.opa.extractLsb' 0 8 :=
  BitVec.setWidth_eq_extractLsb' (by omega)

/-- Settles O7: the accepted command's state, with the eight shifts as an iterate. -/
theorem crcCommandsCompute : Obligations.CrcCommandsCompute := by
  intro s h
  refine ⟨?new, ?update, ?sum⟩
  case new => exact exec_command_idle rfl h
  case update =>
    rw [exec_command_idle rfl h, accepted, crcByte, crcShifts_eq_iterate, opaByte_eq]
    rfl
  case sum => exact exec_command_idle rfl h

end Sys2Proof.CrcProofs

/-! PROOFS of the family 41_cipher.md: the registers and the mask of the cipher after `n` words, and the words a run of
CIPH.ENC returns. -/

namespace Sys2Proof.CipherProofs

open Sys2Proof.Machine

/-! ### The commands -/

/-- Settles O8: the accepted commands' states, with the constants written out. -/
theorem cipherCommandsCompute : Obligations.CipherCommandsCompute := by
  intro s h
  exact ⟨exec_command_idle rfl h, exec_command_idle rfl h⟩

/-! ### The keystream -/

/-- What word number `k`, counted from 0, is XORed with after CIPH.NEW with `iv` (R155). -/
def keystreamMask (iv : Word) (k : Nat) : Word :=
  lcgAfter (k + 1) iv ^^^ posAfter k ^^^ Config.key

/-- The cipher was started with `iv` and has made `n` words, and the block takes the next command. -/
structure KeystreamAt (iv : Word) (n : Nat) (s : State) : Prop where
  idle : s.busy = false
  lcg : s.lcg = lcgAfter n iv
  pos : s.pos = posAfter n

/-- The state CIPH.ENC of the word `w` leaves, the word put in `OPA` before. -/
def afterWord (w : Word) (s : State) : State :=
  accepted .ciphEnc { s with opa := w }

theorem exec_ciphEnc_opa {s : State} (h : s.busy = false) (w : Word) :
    exec .ciphEnc { s with opa := w } = .next (afterWord w s) :=
  exec_command_idle rfl h

theorem cipherCalls_cons {s : State} (h : s.busy = false) (w : Word) (ws : List Word) :
    cipherCalls s (w :: ws) = (cipherCalls (afterWord w s) ws).map fun x => (x.1, (afterWord w s).res :: x.2) := by
  rw [cipherCalls, exec_ciphEnc_opa h]

theorem keystreamAt_ciphNew (s : State) : KeystreamAt s.opa 0 (accepted .ciphNew s) where
  idle := rfl
  lcg := rfl
  pos := (BitVec.sub_zero _).symm

/-- One more word, whatever it is: the registers do not depend on `OPA`. -/
theorem keystreamAt_afterWord {iv : Word} {n : Nat} {s : State} (h : KeystreamAt iv n s) (w : Word) :
    KeystreamAt iv (n + 1) (afterWord w s) where
  idle := rfl
  lcg := congrArg lcgNext h.lcg
  pos := (congrArg (· - Config.posStep) h.pos).trans (EncodingProofs.posAfter_succ n).symm

/-- The mask takes the generator after its step and the position before (R152, R153). -/
theorem res_afterWord {iv : Word} {n : Nat} {s : State} (h : KeystreamAt iv n s) (w : Word) :
    (afterWord w s).res = w ^^^ keystreamMask iv n := by
  change w ^^^ lcgNext s.lcg ^^^ s.pos ^^^ Config.key = w ^^^ (lcgNext (lcgAfter n iv) ^^^ posAfter n ^^^ Config.key)
  rw [h.lcg, h.pos]
  simp only [BitVec.xor_assoc]

/-- From the position after `n` words every call completes, and the masks follow on from number `n`. -/
theorem cipherCalls_eq {iv : Word} (ws : List Word) {n : Nat} {s : State} (h : KeystreamAt iv n s) :
    ∃ u, cipherCalls s ws = some (u, ws.mapIdx fun k w => w ^^^ keystreamMask iv (n + k)) ∧
      KeystreamAt iv (n + ws.length) u := by
  induction ws generalizing n s with
  | nil => exact ⟨s, rfl, h⟩
  | cons w ws ih =>
    obtain ⟨u, hcalls, hu⟩ := ih (keystreamAt_afterWord h w)
    have hnext (k : Nat) : n + 1 + k = n + (k + 1) := by omega
    refine ⟨u, ?_, hnext ws.length ▸ hu⟩
    rw [cipherCalls_cons h.idle, hcalls, res_afterWord h, List.mapIdx_cons]
    simp only [hnext, Option.map_some, Nat.add_zero]

/-- Settles O9: the run of calls starts from the state CIPH.NEW leaves, which has made no word. -/
theorem cipherKeystreamLaw : Obligations.CipherKeystreamLaw := by
  intro s ws hbusy
  obtain ⟨u, hcalls, hu⟩ := cipherCalls_eq ws (keystreamAt_ciphNew s)
  simp only [Nat.zero_add] at hcalls hu
  refine ⟨accepted .ciphNew s, u, _, exec_command_idle rfl hbusy, hcalls, hu.pos, hu.lcg, List.length_mapIdx, ?_⟩
  intro k w hw
  rw [List.getElem?_mapIdx, hw]
  rfl

end Sys2Proof.CipherProofs

/-! PROOFS of the family 42_rom_container.md: what ROM.BUILD and UPLOAD do with a rejected size, and the little-endian
views and the CRC that ROM.BUILD makes of an accepted image. -/

namespace Sys2Proof.RomProofs

open Sys2Proof.Machine Sys2Proof.MemoryProofs

/-! ### Rejected sizes -/

/-- The error of a rejected size (R171, R172): lengths up to 432 are too small, all others too large. -/
def wrongSize (len : Word) : ErrKind :=
  if len.toNat ≤ 432 then .tooSmall else .tooLarge

theorem sizeError_eq_wrongSize {len : Word} (h : len.toNat ≤ 432 ∨ 262145 ≤ len.toNat) :
    sizeError len = some (wrongSize len) := by
  unfold wrongSize
  split
  next hsmall => exact sizeError_small hsmall
  next hlarge => exact sizeError_large (h.resolve_left hlarge)

/-- An accepted command that builds the image stands in IDLE, so its record carries phase 0 (R271, R280). -/
theorem record_wrongSize (len : Word) :
    (wrongSize len).record .idle =
      { ErrRecord.none with kind := 1#3, sub := if len.toNat ≤ 432 then 1#2 else 2#2, phase := 0#4 } := by
  unfold wrongSize
  split <;> rfl

/-- A command that builds the image raises the error of a rejected size and does nothing more (R176). -/
theorem buildThen_accept_wrongSize {s : State} (h : s.len.toNat ≤ 432 ∨ 262145 ≤ s.len.toNat) (op : BitVec 4)
    (k : State → State) : buildThen k (accept op s) = raise (wrongSize s.len) (accept op s) := by
  simp [buildThen, sizeError_eq_wrongSize h]

/-- Settles O15: both commands raise the error of the size from the accepted state. -/
theorem wrongSizeIsRejectedUntouched : Obligations.WrongSizeIsRejectedUntouched := by
  intro s hb hlen e t
  have hraise (op : BitVec 4) (k : State → State) : buildThen k (accept op s) = t op := by
    rw [buildThen_accept_wrongSize hlen, raise, accept_phase, record_wrongSize]
    rfl
  exact ⟨(exec_command_idle rfl hb).trans (congrArg _ (hraise 0x6#4 id)),
    (exec_command_idle rfl hb).trans (congrArg _ (hraise 0xF#4 startPhases))⟩

/-! ### The views of an accepted image -/

/-- A byte of the padded image as a number: zero from `LEN` on (R62). -/
theorem toNat_paddedByte (img : Memory) (len : Word) (k : Nat) :
    (paddedByte img len k).toNat = if k < len.toNat then (Memory.read img k).toNat else 0 :=
  apply_ite BitVec.toNat _ _ _

/-- A byte appended below a word of any width. -/
theorem toNat_append_byte {n : Nat} (x : BitVec n) (b : Byte) : (x ++ b).toNat = 256 * x.toNat + b.toNat := by
  rw [BitVec.toNat_append, Nat.shiftLeft_eq, Nat.mul_comm, ← Nat.two_pow_add_eq_or_of_lt b.isLt]

/-- A header word is little-endian (R63, R173). -/
theorem toNat_paddedHalf (img : Memory) (len : Word) (a : Nat) :
    (paddedHalf img len a).toNat = (paddedByte img len a).toNat + 256 * (paddedByte img len (a + 1)).toNat := by
  rw [paddedHalf, toNat_append_byte]
  omega

/-- So is a payload word (R63, R174). -/
theorem toNat_paddedWord (img : Memory) (len : Word) (a : Nat) :
    (paddedWord img len a).toNat =
      (paddedByte img len a).toNat + 2 ^ 8 * (paddedByte img len (a + 1)).toNat
        + 2 ^ 16 * (paddedByte img len (a + 2)).toNat + 2 ^ 24 * (paddedByte img len (a + 3)).toNat := by
  rw [paddedWord, toNat_append_byte, toNat_append_byte, toNat_append_byte]
  omega

theorem imageHeader_getElem (img : Memory) (len : Word) (i : Nat) (hi : i < 96) :
    (imageHeader img len)[i] = paddedHalf img len (2 * i) :=
  Vector.getElem_ofFn hi

/-- An entry the payload view has is the word at its offset. -/
theorem eq_paddedWord_of_imagePayload {img : Memory} {len : Word} {j : Nat} {w : Word}
    (h : (imagePayload img len)[j]? = some w) : w = paddedWord img len (0xC0 + 4 * j) := by
  rw [imagePayload, List.getElem?_map] at h
  obtain ⟨i, hi, rfl⟩ := Option.map_eq_some_iff.1 h
  obtain ⟨_, rfl⟩ := List.getElem?_eq_some_iff.1 hi
  rw [List.getElem_range]

/-- The CRC of the image is that of the bytes of the payload region in ascending order (R175). -/
theorem imageCrc_eq_foldl_range (img : Memory) (len : Word) :
    imageCrc img len =
      ((List.range (4 * payloadCount len)).map fun k => paddedByte img len (0xC0 + k)).foldl crcByte 0xC387#16 := by
  rw [imageCrc_eq, payloadBytes_imagePayload_eq_map]
  rfl

theorem nwords_loadImage {s : State} (h : sizeError s.len = none) :
    (loadImage s).nwords.toNat = payloadCount s.len := by
  obtain ⟨-, hmax, hcount⟩ := payload_size h
  exact Nat.mod_eq_of_lt (by omega)

theorem p_length_loadImage (s : State) : (loadImage s).p.length = payloadCount s.len := by
  simp [loadImage, imagePayload]

/-- Settles O13: an accepted ROM.BUILD is `loadImage`, and each of its views is read off the padded bytes. -/
theorem romBuildSplitsTheImage : Obligations.RomBuildSplitsTheImage := by
  intro s hb hmin hmax padded
  have hsize : sizeError s.len = none := (sizeError_none_iff s.len).2 ⟨hmin, hmax⟩
  have hbyte (k : Nat) : padded k = (paddedByte s.img s.len k).toNat := (toNat_paddedByte s.img s.len k).symm
  obtain ⟨-, -, hcount⟩ := payload_size hsize
  have hplen : (loadImage (accept 0x6#4 s)).plen.toNat = paddedLength s.len := plen_loadImage hsize
  have hnwords : (loadImage (accept 0x6#4 s)).nwords.toNat = payloadCount s.len := nwords_loadImage hsize
  refine ⟨loadImage (accept 0x6#4 s), romBuild_of_sizeError_none hb hsize, rfl, hplen, ?nwords, ?entries, ?header,
    ?payload, ?crc⟩
  case nwords => rw [hnwords, hplen, hcount]
  case entries => exact (p_length_loadImage _).trans hnwords.symm
  case header =>
    intro i hi
    rw [hbyte, hbyte, ← toNat_paddedHalf]
    exact congrArg BitVec.toNat (imageHeader_getElem s.img s.len i hi)
  case payload =>
    intro j w hw
    rw [eq_paddedWord_of_imagePayload (img := s.img) (len := s.len) hw, toNat_paddedWord]
    simp only [hbyte]
  case crc =>
    simp only [hbyte, BitVec.ofNat_toNat, BitVec.setWidth_eq, hplen, ← hcount]
    exact imageCrc_eq_foldl_range s.img s.len

end Sys2Proof.RomProofs

/-! PROOFS of the family 43_link_primitives.md: how the commands of the link and the timer are accepted, and the one
step of DELAY. The halves of their transfers stand with the encoding. -/

namespace Sys2Proof.LinkProofs

open Sys2Proof.Machine

/-- Settles O6: an accepted command with no action of its own. -/
theorem nopOnlyAcceptsTheCommand : Obligations.NopOnlyAcceptsTheCommand := by
  intro s hb
  exact exec_command_idle rfl hb

/-- Settles O18: accepting such a command only moves to PHASE UNIT, where its first step is still to come. -/
theorem linkCommandsEnterUnit : Obligations.LinkCommandsEnterUnit := by
  intro s hb t
  have accepts {i : Instr} (hi : i.opcode?.isSome = true) : exec i s = .next (accepted i s) := exec_command_idle hi hb
  exact ⟨accepts rfl, accepts rfl, accepts rfl, accepts rfl, accepts rfl, accepts rfl⟩

/-- Settles O23: the delay ends, and the unit command with it, in the same step. -/
theorem delayIsOneLabelledStep : Obligations.DelayIsOneLabelledStep := by
  intro s hp hc
  exact exec_delay_running hp hc

end Sys2Proof.LinkProofs

/-! PROOFS of the family 44_sequencer.md: the start of an upload, and what the response of each phase does. That the
phases send their words and refuse other responses stands with the encoding. -/

namespace Sys2Proof.SequencerProofs

open Sys2Proof.Machine Sys2Proof.StateProofs Sys2Proof.MemoryProofs Sys2Proof.EncodingProofs

/-! ### The start of an upload -/

/-- An UPLOAD of an accepted size writes the views of the image and starts phase 1. -/
theorem upload_of_sizeError_none {s : State} (hb : s.busy = false) (hsize : sizeError s.len = none) :
    exec .upload s = .next (startPhases (loadImage (accept 0xF#4 s))) := by
  rw [exec_command_idle rfl hb]
  simp [accepted, buildThen, hsize]

/-- Settles O14: both commands load the same image; they differ in CMD and in the start of the phases. -/
theorem uploadBuildsAndStartsPhaseOne : Obligations.UploadBuildsAndStartsPhaseOne := by
  intro s hb hmin hmax
  have hsize : sizeError s.len = none := (sizeError_none_iff s.len).2 ⟨hmin, hmax⟩
  exact ⟨_, romBuild_of_sizeError_none hb hsize, upload_of_sizeError_none hb hsize⟩

/-! ### The polling phases 1 and 2 -/

/-- The response of phase 1 as a choice between its two ends (R222). -/
theorem discoverResponse_eq (r : Half) (t : State) :
    discoverResponse r t =
      if r = 0x7202#16 ∨ (r = 0x0000#16 ∧ t.rms = true) then { t with stab := 0#4, phase := .stabilize }
      else { t with rms := t.rms || decide (r = 0x0000#16 ∨ r = 0xFFFF#16), wait := true } := by
  unfold discoverResponse
  by_cases hready : r = 0x7202#16
  · simp [hready]
  by_cases hzero : r = 0x0000#16
  · by_cases hseen : t.rms = true <;> simp [hzero, hseen]
  by_cases hones : r = 0xFFFF#16
  · simp [hones]
  · simp [hready, hzero, hones]

/-- Settles O27: the delay of the loop, or the response of phase 1. -/
theorem discoverFollowsTheResponse : Obligations.DiscoverFollowsTheResponse := by
  intro s hp
  have hplace : inPlace .wPoll s = true := by simp [inPlace, hp]
  refine ⟨fun hw => exec_inPlace_delay hplace rfl hw, fun c0 c1 c2 c3 rest hw hx hr => ?_⟩
  rw [exec_response hplace (.inr hw) hx hr]
  simp only [onResponse, hp, if_true, discoverResponse_eq]

/-- The counter of phase 2 reaches 15 from 14 only. -/
theorem stab_succ_eq_fifteen_iff (n : BitVec 4) : n + 1#4 = 15#4 ↔ n = 14#4 := by
  bv_omega

theorem stab_succ_eq_ofNat (n : BitVec 4) : n + 1#4 = BitVec.ofNat 4 (n.toNat + 1) := by
  bv_omega

/-- The response of phase 2, with the counter as a number (R223). -/
theorem stabilizeResponse_eq (r : Half) {t : State} (hp : t.phase = .stabilize) :
    stabilizeResponse r t =
      if r = 0x7202#16 then
        { t with stab := BitVec.ofNat 4 (t.stab.toNat + 1), phase := if t.stab = 14#4 then .pr1 else .stabilize }
      else { t with stab := 0#4, wait := true } := by
  unfold stabilizeResponse
  simp only [stab_succ_eq_fifteen_iff]
  by_cases h : t.stab = 14#4
  · simp [h]
  · simp [h, stab_succ_eq_ofNat, ← hp]

/-- Settles O28: the delay of the loop, or the response of phase 2. -/
theorem stabilizeCountsFifteenInARow : Obligations.StabilizeCountsFifteenInARow := by
  intro s hp
  have hplace : inPlace .wPoll s = true := by simp [inPlace, hp]
  refine ⟨fun hw => exec_inPlace_delay hplace rfl hw, ?_⟩
  intro c0 c1 c2 c3 rest hw hx _ hr base
  rw [exec_response hplace (.inr hw) hx hr]
  have hne : s.phase ≠ .discover := by simp [hp]
  simp only [onResponse, if_neg hne]
  exact congrArg _ (stabilizeResponse_eq (t := base) _ hp)

/-! ### The single-shot phases 3, 4, 5 and 7 -/

/-- A demanded response that matches, as the read half leaves it: the phase goes on (R193). -/
theorem exec_demanded {i : Instr} {s : State} {c0 c1 c2 c3 : Byte} {rest : List RxItem} {w e m : Half}
    {k : Half → State → State} (h : inPlace i s = true) (hd : pollDelay i s = none) (hx : s.xhalf = true)
    (hr : s.rx = .byte c0 :: .byte c1 :: .byte c2 :: .byte c3 :: rest) (hk : onResponse i s = demand w e m k)
    (hm : responseMatches (c0 ++ c1) e m = true) :
    exec i s = .next (k (c0 ++ c1)
      { s with rx := rest, xhalf := false, trace := s.trace ++ [.took [c0, c1, c2, c3]] }) := by
  rw [exec_response h (.inl hd) hx hr, hk, demand_matched hm]

/-- Settles O29: at each site the response is the one demanded, in the bits that are compared. -/
theorem singleShotPhasesAdvance : Obligations.SingleShotPhasesAdvance := by
  intro s b c0 c1 c2 c3 rest hx hr base
  have full {e : Half} (h : c0 ++ c1 = e) : responseMatches (c0 ++ c1) e 0xFFFF#16 = true := by
    rw [matches_full]
    exact decide_eq_true h
  have high (h : c0 = 0x73#8) : responseMatches (c0 ++ c1) 0x7300#16 0xFF00#16 = true := by
    rw [matches_high]
    exact decide_eq_true h
  refine ⟨fun hp h => ?pr1, fun hp hi h => ?hdrend, fun hp h => ?pr2, fun hp h => ?hs⟩
  case pr1 => exact exec_demanded (i := .wPr1) (by simp [inPlace, hp]) rfl hx hr rfl (full h)
  case hdrend => exact exec_demanded (i := .wHdrend) (by simp [inPlace, hp, hi]) rfl hx hr rfl (full h)
  case pr2 => exact exec_demanded (i := .wPr2) (by simp [inPlace, hp]) rfl hx hr rfl (full h)
  case hs => exact exec_demanded (i := .wHs b) (by simp [inPlace, hp]) rfl hx hr rfl (high h)

/-! ### Phases 6 and 8 -/

/-- The handshake byte of R230 as a sum modulo 256. -/
theorem handshakeByte_eq_ofNat (seed : Byte) :
    handshakeByte seed = BitVec.ofNat 8 (seed.toNat + 0xFF + 0xFF + 0x11) := by
  simp [handshakeByte, BitVec.ofNat_add]

/-- Settles O31: the loop of phase 6 has no delay, and its end records the low byte of the response. -/
theorem paletteRecordsTheSeed : Obligations.PaletteRecordsTheSeed := by
  intro s c0 c1 c2 c3 rest hp hw hx hr base
  rw [exec_response (by simp [inPlace, hp]) (.inr hw) hx hr]
  simp only [onResponse, poll, matches_high, decide_eq_true_iff, if_true, recordSeed, low_append,
    handshakeByte_eq_ofNat]
  rfl

/-- In phase 8 the block's turn runs no instruction. -/
theorem nextInstr_of_fixedDelay {s : State} (hp : s.phase = .fixedDelay) (hm : s.nextMove = .turn) :
    nextInstr s = none := by
  rw [nextInstr_of_turn hm, blockInstr, hp]

/-- Settles O32: the turn without a word is the fixed delay. -/
theorem fixedDelayComesBeforeTheLength : Obligations.FixedDelayComesBeforeTheLength := by
  intro s hp hm
  have hpop : s.pop.phase = .fixedDelay := hp
  rw [step_of_none (nextInstr_of_fixedDelay hp hm), otherStep, hm, otherMove, turnWithoutWord, hpop]
  rfl

/-! ### Phase 10 -/

/-- A completed data transfer with the indices as numbers (R234). -/
theorem dataSent_eq {t : State} (hlt : t.pidx.toNat < t.nwords.toNat) :
    dataSent t =
      let u : State :=
        { t with pidx := BitVec.ofNat 16 (t.pidx.toNat + 1), prog := BitVec.ofNat 16 (t.pidx.toNat + 1) }
      if t.pidx.toNat + 1 = t.nwords.toNat then { u with sub := false, phase := .prepCrc } else u := by
  have hsucc : t.pidx + 1#16 = BitVec.ofNat 16 (t.pidx.toNat + 1) := by bv_omega
  have hlast : BitVec.ofNat 16 (t.pidx.toNat + 1) = t.nwords ↔ t.pidx.toNat + 1 = t.nwords.toNat := by bv_omega
  simp only [dataSent, hsucc, hlast, leaveMain]

/-- Settles O34: the response is not looked at. -/
theorem dataResponsesAreDiscarded : Obligations.DataResponsesAreDiscarded := by
  intro s d c0 c1 c2 c3 rest hp hx hlt hr base
  rw [exec_response (by simp [inPlace, hp, hlt]) (.inl rfl) hx hr]
  exact congrArg _ (dataSent_eq hlt)

/-! ### Phases 11 and 12 -/

/-- Settles O35: the delay of the poll, the poll and the confirm, which seals the CRC. -/
theorem prepareCrcPollsConfirmsAndSeals : Obligations.PrepareCrcPollsConfirmsAndSeals := by
  intro s hp
  refine ⟨fun hs hw => exec_inPlace_delay (by simp [inPlace, hp, hs]) rfl hw, ?_⟩
  intro c0 c1 c2 c3 rest hx hr base
  refine ⟨fun hs hw => ?poll, fun hs h => ?confirm⟩
  case poll =>
    have hdelay : Config.delayUs ≠ 0#32 := by decide
    rw [exec_response (by simp [inPlace, hp, hs]) (.inr hw) hx hr]
    simp only [onResponse, poll, matches_low, decide_eq_true_iff, if_neg hdelay]
    rfl
  case confirm =>
    refine exec_demanded (i := .wCrcgo) (by simp [inPlace, hp, hs]) rfl hx hr rfl ?_
    rw [matches_low]
    exact decide_eq_true h

/-- Settles O36: the peer echoes the CRC, or the response is unexpected. -/
theorem echoOfTheCrcEndsTheUpload : Obligations.EchoOfTheCrcEndsTheUpload := by
  intro s c c0 c1 c2 c3 rest hp hx hr base e
  have hplace : inPlace (.wCrc c) s = true := by simp [inPlace, hp]
  by_cases hm : c0 ++ c1 = c
  · rw [if_pos hm]
    refine exec_demanded hplace rfl hx hr rfl ?_
    rw [matches_full]
    exact decide_eq_true hm
  · rw [if_neg hm, exec_unexpected .sendCrc hp hplace rfl hx hr rfl]
    · simp [base, e, ErrKind.record, Phase.code]
    · rw [matches_full]
      exact decide_eq_false hm

end Sys2Proof.SequencerProofs

/-! PROOFS of the family 60_exceptions.md: the turn of an idle block, how an instruction ends in ERROR, and where a
delay is recorded. -/

namespace Sys2Proof.ExceptionProofs

open Sys2Proof.Machine Sys2Proof.StateProofs Sys2Proof.MemoryProofs Sys2Proof.EncodingProofs

/-! ### The idle block -/

/-- The turn of an idle block changes nothing: only phases 8 and 10 act in a turn without a word, and both are busy. -/
theorem turnWithoutWord_idle {s : State} (hb : s.busy = false) : turnWithoutWord s = .next s := by
  unfold State.busy at hb
  unfold turnWithoutWord
  cases hp : s.phase <;> simp [hp, Phase.isBusy] at hb ⊢

/-- Settles O53: an idle block has no instruction of its own, and its turn without one changes nothing. -/
theorem idleBlockTakesNoStep : Obligations.IdleBlockTakesNoStep := by
  intro s hb hm
  have hnone : nextInstr s = none := (nextInstr_of_turn hm).trans (blockInstr_of_idle hb)
  rw [step_of_none hnone, otherStep, hm]
  exact turnWithoutWord_idle (s := s.pop) hb

/-! ### How an instruction ends in ERROR -/

/-- The code of an error kind (R270). -/
def kindCode : ErrKind → Nat
  | .tooSmall | .tooLarge => 1
  | .writeFailed | .readFailed => 2
  | .unexpected .. => 3
  | .endOfStream => 4

theorem record_kind_toNat (k : ErrKind) (ph : Phase) : (k.record ph).kind.toNat = kindCode k := by
  cases k <;> rfl

/-- A record names the phase in which the error was raised (R40). -/
theorem record_phase (k : ErrKind) (ph : Phase) : (k.record ph).phase = ph.code := by
  cases k <;> rfl

/-- From `s` an error with a code of `ks` was raised, after nothing but moves of bytes on the link. -/
def Raised (ks : List Nat) (s t : State) : Prop :=
  ∃ (k : ErrKind) (rx : List RxItem) (f : Bool) (n : Nat) (l : List Obs), kindCode k ∈ ks ∧
    t = raise k { s with rx := rx, txFail := f, draws := n, trace := s.trace ++ l }

/-- A demanded response ends in ERROR only where it does not match. -/
theorem demand_error {w e m r : Half} {k : Half → State → State} {t : State} (hk : (k r t).phase ≠ .error)
    (he : (demand w e m k r t).phase = .error) : demand w e m k r t = raise (.unexpected w e m r) t := by
  unfold demand at he ⊢
  split at he
  · exact absurd he hk
  · exact if_neg ‹_›

/-- A polled response never ends in ERROR. -/
theorem poll_phase_ne_error {e m r : Half} {d : Word} {k : Half → State → State} {t : State} (ht : t.phase ≠ .error)
    (hk : (k r t).phase ≠ .error) : (poll e m d k r t).phase ≠ .error := by
  unfold poll
  split_ifs <;> assumption

theorem discoverResponse_phase_ne_error (r : Half) {t : State} (ht : t.phase ≠ .error) :
    (discoverResponse r t).phase ≠ .error := by
  have hnext : Phase.stabilize ≠ .error := by decide
  unfold discoverResponse
  split_ifs <;> assumption

theorem stabilizeResponse_phase_ne_error (r : Half) {t : State} (ht : t.phase ≠ .error) :
    (stabilizeResponse r t).phase ≠ .error := by
  have hnext : Phase.pr1 ≠ .error := by decide
  unfold stabilizeResponse
  split_ifs <;> assumption

theorem dataSent_phase_ne_error {t : State} (ht : t.phase ≠ .error) : (dataSent t).phase ≠ .error := by
  unfold dataSent leaveMain
  split
  · exact Phase.noConfusion
  · exact ht

/-- A response ends in ERROR only in the instructions that demand one, and there as UnexpectedResponse (R273). -/
theorem onResponse_error {i : Instr} {s t : State} {r : Half} (ht : t.phase ≠ .error)
    (he : (onResponse i s r t).phase = .error) :
    ∃ k : ErrKind, kindCode k ∈ mayRaise i ∧ onResponse i s r t = raise k t := by
  cases i <;> simp only [onResponse] at he ⊢
  case sendd | wPr1 | wHdrend | wPr2 | wHs | wLen | wCrcgo | wCrc =>
    exact ⟨_, by simp [kindCode, mayRaise], demand_error Phase.noConfusion he⟩
  case wHdr => exact ⟨_, by simp [kindCode, mayRaise], demand_error ht he⟩
  case sendu | wPal => exact absurd he (poll_phase_ne_error ht Phase.noConfusion)
  case wCrcreq => exact absurd he (poll_phase_ne_error ht ht)
  case wPoll =>
    split at he
    · exact absurd he (discoverResponse_phase_ne_error r ht)
    · exact absurd he (stabilizeResponse_phase_ne_error r ht)
  case wData => exact absurd he (dataSent_phase_ne_error ht)
  case xfer | xfer16 | xfer32 => cases he
  all_goals exact absurd he ht

/-- A transfer ends in ERROR by a failure of the transport or by its response. -/
theorem raised_transfer {ks : List Nat} {w : Word} {k : Half → State → State} {s : State} (htransport : 2 ∈ ks)
    (hclosed : 4 ∈ ks) (hs : s.phase ≠ .error)
    (hk : ∀ r u, u.phase ≠ .error → (k r u).phase = .error → ∃ e : ErrKind, kindCode e ∈ ks ∧ k r u = raise e u) :
    (transfer w k s).phase = .error → Raised ks s (transfer w k s) := by
  apply transfer_spec (motive := fun t => t.phase = .error → Raised ks s t)
  case wrote => exact fun _ _ he => absurd he hs
  case waiting => exact fun _ _ he => absurd he hs
  case writeFailed => exact fun _ _ _ => ⟨.writeFailed, _, _, _, _, htransport, rfl⟩
  case failed => exact fun _ _ _ _ _ => ⟨.readFailed, _, _, _, _, htransport, rfl⟩
  case ended => exact fun _ _ _ _ _ => ⟨.endOfStream, _, _, _, _, hclosed, rfl⟩
  case frame =>
    intro c0 c1 c2 c3 rest _ _ he
    obtain ⟨e, hcode, heq⟩ := hk (c0 ++ c1)
      { s with rx := rest, xhalf := false, trace := s.trace ++ [.took [c0, c1, c2, c3]] } hs he
    rw [heq]
    exact ⟨e, _, _, _, _, hcode, rfl⟩

/-- The transport may fail under every instruction that transfers (R275). -/
theorem transport_mem_mayRaise {i : Instr} {s : State} (h : inPlace i s = true) : 2 ∈ mayRaise i ∧ 4 ∈ mayRaise i := by
  cases i <;> simp [inPlace] at h <;> simp [mayRaise]

/-- In a busy block only an instruction in its place ends in ERROR, by its transfer. -/
theorem raised_exec {i : Instr} {s t : State} (hb : s.busy = true) (h : exec i s = .next t) (he : t.phase = .error) :
    inPlace i s = true ∧ Raised (mayRaise i) (beforeTransfer i s) t := by
  have hs : s.phase ≠ .error := phase_ne_error_of_busy hb
  rcases exec_next_cases h with ⟨-, hi, -⟩ | ⟨-, -, rfl⟩ | ⟨-, -, -, rfl⟩ | ⟨d, -, -, -, rfl⟩ | ⟨hp, -, rfl⟩
  case inl => rw [hb] at hi; cases hi
  case inr.inl => exact absurd he hs
  case inr.inr.inl => cases he
  case inr.inr.inr.inl => exact absurd he hs
  case inr.inr.inr.inr =>
    obtain ⟨htransport, hclosed⟩ := transport_mem_mayRaise hp
    have hbefore : (beforeTransfer i s).phase ≠ .error := by rwa [phase_beforeTransfer]
    exact ⟨hp, raised_transfer htransport hclosed hbefore (fun _ _ => onResponse_error) he⟩

/-- Before the transfer of an instruction in its place the cipher advances in phase 10 alone, with the write half. -/
theorem beforeTransfer_of_inPlace {i : Instr} {s : State} (h : inPlace i s = true) :
    beforeTransfer i s = { s with
      lcg := if s.phase = .main ∧ s.xhalf = false then 0x6F646573#32 * s.lcg + 1#32 else s.lcg
      pos := if s.phase = .main ∧ s.xhalf = false then s.pos - 4#32 else s.pos } := by
  by_cases hadvance : s.phase = .main ∧ s.xhalf = false
  · obtain ⟨d, rfl⟩ := eq_wData_of_inPlace_main h hadvance.1
    rw [beforeTransfer_wData, if_neg (Bool.eq_false_iff.1 hadvance.2), if_pos hadvance, if_pos hadvance]
    rfl
  · rw [if_neg hadvance, if_neg hadvance]
    rcases beforeTransfer_cases i s with ⟨hb, -⟩ | ⟨-, hx, d, rfl⟩
    · exact hb
    · have hm : s.phase = .main ∧ s.pidx.toNat < s.nwords.toNat := by simpa [inPlace] using h
      exact absurd ⟨hm.1, hx⟩ hadvance

/-- Settles O40: the error is raised from the state the transfer starts from. -/
theorem errorsArePrecise : Obligations.ErrorsArePrecise := by
  intro i s t hb h he
  obtain ⟨hp, hraised⟩ := raised_exec hb h he
  rw [beforeTransfer_of_inPlace hp] at hraised
  obtain ⟨k, rx, f, n, l, -, rfl⟩ := hraised
  exact ⟨record_phase k s.phase, rfl, rfl, l, rfl, rfl⟩

/-- The size check knows SizeOutOfRange alone (R271). -/
theorem kindCode_of_sizeError {len : Word} {e : ErrKind} (h : sizeError len = some e) : kindCode e = 1 := by
  unfold sizeError at h
  split_ifs at h <;> cases h <;> rfl

/-- A size that is refused raises SizeOutOfRange, and what follows a built image raises nothing. -/
theorem kind_buildThen {k : State → State} {s : State} (hk : (k (loadImage s)).phase ≠ .error) :
    (buildThen k s).phase = .error → (buildThen k s).err.kind.toNat = 1 := by
  apply buildThen_spec (motive := fun t => t.phase = .error → t.err.kind.toNat = 1)
  case rejected => exact fun e hsize _ => (record_kind_toNat e s.phase).trans (kindCode_of_sizeError hsize)
  case built => exact fun _ he => absurd he hk

/-- An accepted command ends in ERROR only where it builds the image. -/
theorem kind_accepted {i : Instr} {s : State} (hs : s.phase ≠ .error) (he : (accepted i s).phase = .error) :
    (accepted i s).err.kind.toNat ∈ mayRaise i := by
  cases i
  case romBuild | upload => exact List.mem_singleton.2 (kind_buildThen Phase.noConfusion he)
  case reservedD | reservedE => exact absurd he hs
  all_goals cases he

/-- Settles O41: while the block is busy an error comes from a transfer, otherwise from the size of the image. -/
theorem errorKindsByOperation : Obligations.ErrorKindsByOperation := by
  intro i s t h hs he
  cases hb : s.busy with
  | true =>
    obtain ⟨-, k, rx, f, n, l, hcode, rfl⟩ := raised_exec hb h he
    rwa [raise_err, record_kind_toNat]
  | false =>
    obtain rfl := exec_idle_eq_accepted hb h
    exact kind_accepted hs he

/-! ### Where a delay is recorded -/

/-- From `s` to `t` no delay was recorded. -/
def NoDelay (s t : State) : Prop :=
  ∃ l : List Obs, t.trace = s.trace ++ l ∧ ∀ us : Word, .delay us ∉ l

theorem noDelay_of_offLink {s t : State} (h : OffLink s t) : NoDelay s t := by
  obtain ⟨l, htr, hl⟩ := h.trace
  exact ⟨l, htr, fun us hm => by cases hl _ hm⟩

theorem noDelay_of_trace_eq {s t : State} (h : t.trace = s.trace) : NoDelay s t :=
  ⟨[], by rw [h, List.append_nil], by simp⟩

theorem not_noDelay {s t : State} {us : Word} (htr : t.trace = s.trace ++ [.delay us]) : ¬NoDelay s t := by
  rintro ⟨l, htr', hl⟩
  rw [htr, List.append_cancel_left_eq] at htr'
  exact hl us (htr' ▸ List.mem_singleton_self _)

/-- A half of a transfer is one event of the link, with what the response adds; none of it is a delay. -/
theorem noDelay_transfer {w : Word} {k : Half → State → State} {s : State} (hk : ∀ r t, OffLink t (k r t)) :
    NoDelay s (transfer w k s) := by
  apply transfer_spec (motive := NoDelay s)
  case wrote => exact fun _ _ => ⟨_, rfl, by simp⟩
  case writeFailed => exact fun _ _ => ⟨_, List.append_assoc _ _ _, by simp⟩
  case failed => exact fun _ _ _ _ => ⟨_, List.append_assoc _ _ _, by simp⟩
  case ended => exact fun _ _ _ _ => ⟨_, List.append_assoc _ _ _, by simp⟩
  case waiting => exact fun _ _ => noDelay_of_trace_eq rfl
  case frame =>
    intro c0 c1 c2 c3 rest _ _
    obtain ⟨l, htr, hl⟩ := noDelay_of_offLink (hk (c0 ++ c1)
      { s with rx := rest, xhalf := false, trace := s.trace ++ [.took [c0, c1, c2, c3]] })
    exact ⟨_, htr.trans (List.append_assoc _ _ _), by simpa using hl⟩

/-- An instruction records a delay in PHASE UNIT or in the loop of a polling instruction. -/
theorem exec_delay_cases {i : Instr} {s t : State} (h : exec i s = .next t) :
    NoDelay s t ∨ s.phase = .unit ∨
      ∃ d, inPlace i s = true ∧ pollDelay i s = some d ∧ s.wait = true ∧ t = delayEnds d s := by
  rcases exec_next_cases h with ⟨-, -, rfl⟩ | ⟨-, -, rfl⟩ | ⟨-, hp, -, -⟩ | hd | ⟨-, -, rfl⟩
  case inl => exact .inl (noDelay_of_offLink (offLink_accepted i s))
  case inr.inl => exact .inl (noDelay_of_trace_eq rfl)
  case inr.inr.inl => exact .inr (.inl hp)
  case inr.inr.inr.inl => exact .inr (.inr hd)
  case inr.inr.inr.inr =>
    obtain ⟨x, y, hb⟩ := beforeTransfer_eq i s
    rw [hb]
    exact .inl (noDelay_transfer (s := { s with lcg := x, pos := y }) (offLink_onResponse i s))

/-- The reset input records at most the bytes of a write that it cuts (R311). -/
theorem noDelay_resetInput (w : Bool) (s : State) : NoDelay s (resetInput w s) := by
  unfold resetInput
  split
  · exact noDelay_of_trace_eq rfl
  · exact ⟨_, rfl, by simp⟩

/-- A move without an instruction records a delay in phase 8 alone. -/
theorem otherMove_delay_cases {m : Input} {s t : State} (h : otherMove m s = .next t) :
    NoDelay s t ∨ (s.phase = .fixedDelay ∧ t = fixedDelayStep s) := by
  cases m with
  | turn =>
    rcases turnWithoutWord_next h with hfixed | ⟨-, -, rfl⟩ | ⟨-, -, rfl⟩
    · exact .inr hfixed
    · exact .inl (noDelay_of_trace_eq rfl)
    · exact .inl (noDelay_of_trace_eq rfl)
  | hostWrite r v => cases h; exact .inl (noDelay_of_offLink (offLink_hostWrite r v s))
  | hostRead r => cases h; exact .inl (noDelay_of_offLink (offLink_hostRead r s))
  | hostImage k b => cases h; exact .inl (noDelay_of_offLink (offLink_hostImage k b s))
  | deliver x => cases h; exact .inl (noDelay_of_trace_eq rfl)
  | failNextWrite => cases h; exact .inl (noDelay_of_trace_eq rfl)
  | drainLink =>
    simp only [otherMove] at h
    split at h <;> cases h
    exact .inl (noDelay_of_trace_eq rfl)
  | reset w => cases h; exact .inl (noDelay_resetInput w s)

/-- The sequencer's polling loops that wait in a sound state, and their delay: phase 6 has none (R228). -/
theorem pollDelay_of_waiting {i : Instr} {s : State} {d : Word} (hs : ControlSound s) (hw : s.wait = true)
    (hu : s.phase ≠ .unit) (h : inPlace i s = true) (hd : pollDelay i s = some d) :
    d = 62500#32 ∧ (s.phase = .discover ∨ s.phase = .stabilize ∨ (s.phase = .prepCrc ∧ s.sub = false)) := by
  obtain ⟨-, hsite⟩ := hs.waiting hw
  cases i <;> simp only [pollDelay, reduceCtorEq, Option.some.injEq] at hd <;> simp [inPlace] at h
  case sendu => exact absurd h.1 hu
  case wPoll => exact ⟨hd.symm, h.imp_right .inl⟩
  case wPal => simp [h] at hsite
  case wCrcreq => exact ⟨hd.symm, .inr (.inr h)⟩

/-- The delay an event names is the one of the step that recorded it. -/
theorem delay_eq {l : List Obs} {d us : Word} (h : l ++ [.delay d] = l ++ [.delay us]) : us = d := by
  simpa using h.symm

/-- Settles O45: a polling loop's delay, or that of phase 8; no other step of the sequencer records one. -/
theorem sequencerDelaysAre62500 : Obligations.SequencerDelaysAre62500 := by
  intro s t us hs hup h htr
  have hpop : ControlSound s.pop := controlSound_of_controlFields hs rfl
  have hnot : ¬NoDelay s.pop t := not_noDelay htr
  have hu : s.phase ≠ .unit := fun hp => by simp [hp, Phase.inUpload, Phase.code] at hup
  rcases step_next_cases h with ⟨i, -, hi⟩ | ⟨-, hm⟩
  · rcases exec_delay_cases hi with hno | hp | ⟨d, hplace, hd, hw, rfl⟩
    · exact absurd hno hnot
    · exact absurd hp hu
    · obtain ⟨hus, hsite⟩ := pollDelay_of_waiting hpop hw hu hplace hd
      exact ⟨(delay_eq htr).trans hus, hsite.imp_right fun hlater => hlater.imp_right .inr⟩
  · rcases otherMove_delay_cases hm with hno | ⟨hp, rfl⟩
    · exact absurd hno hnot
    · exact ⟨delay_eq htr, .inr (.inr (.inl hp))⟩

end Sys2Proof.ExceptionProofs

/-! PROOFS of the family 'other': the host's image writes. -/

namespace Sys2Proof.OtherProofs

open Sys2Proof.Machine Sys2Proof.StateProofs Sys2Proof.MemoryProofs

/-- An image write changes the image alone, and only in an idle block below the largest size (R61, R300). -/
theorem hostImage_eq (k : Nat) (b : Byte) (s : State) :
    hostImage k b s =
      { s with img := if s.busy = false ∧ k < 262144 then Memory.write s.img k b else s.img } := by
  unfold hostImage
  cases hb : s.busy with
  | true => simp
  | false => by_cases hk : k < 262144 <;> simp [Config.maxSize, hk]

/-- In a canonical memory a write is seen at its own address and nowhere else. -/
theorem read_write {m : Memory} (hm : Memory.wf m = true) (k : Nat) (b : Byte) (a : Nat) :
    Memory.read (Memory.write m k b) a = if a = k then b else Memory.read m a := by
  split_ifs with ha
  · rw [ha]
    exact Memory.read_write_same hm k b
  · exact Memory.read_write_other hm b ha

/-- What every byte reads as after an image write. -/
theorem read_hostImage {s : State} (hs : Memory.wf s.img = true) (k : Nat) (b : Byte) (a : Nat) :
    Memory.read (hostImage k b s).img a =
      if s.busy = false ∧ k < 262144 ∧ a = k then b else Memory.read s.img a := by
  rw [hostImage_eq]
  by_cases hstored : s.busy = false ∧ k < 262144
  · obtain ⟨hb, hk⟩ := hstored
    simp [hb, hk, read_write hs]
  · have hnone : ¬(s.busy = false ∧ k < 262144 ∧ a = k) := fun ⟨hb, hk, _⟩ => hstored ⟨hb, hk⟩
    simp only [if_neg hstored, if_neg hnone]

/-- Settles O49: the step is the image write on the block without its move; `wf_hostImage` keeps the canonical form. -/
theorem hostImageWritesStoreOneByte : Obligations.HostImageWritesStoreOneByte := by
  intro s k b l h hs
  have hwf : Memory.wf ({ s with inputs := l } : State).img = true := hs
  refine ⟨hostImage k b { s with inputs := l }, step_otherMove h rfl, ?_, wf_hostImage hwf k b,
    read_hostImage hwf k b⟩
  rw [hostImage_eq]

end Sys2Proof.OtherProofs
